-- ==== Sys2Proof/Word.lean ====
section
/-! DEFINITION. The word types of the block: a byte is 8 bits, a command word 16 bits, the DATA of a response
word and the widest registers 32 bits (`00_scope.md` R7, `30_encoding.md` R56, R58). Numbers that the spec calls
natural numbers (LEN, P_LEN, lengths of a schema) are `Nat`. -/

namespace Sys2Proof

/-- A byte: 8 bits (R7). -/
abbrev Byte := BitVec 8

/-- A command word, and also the checksum: 16 bits (R7, R56). -/
abbrev Half := BitVec 16

/-- The DATA field of a response word, and a value register: 32 bits (R22, R58). -/
abbrev Data := BitVec 32

/-- An opcode, or an error code: 4 bits (R56, R58). -/
abbrev Nibble := BitVec 4

end Sys2Proof
end

