-- ==== Sys2Proof/Syntax.lean ====
section
/-! DEFINITION. The twelve commands (`30_encoding.md` R57; the rows of `spec/opcode_table.json`), the three fields
of a command word (R56), and the names of what makes a word malformed (R59). -/

namespace Sys2Proof

/-- A well-formed command with its operand ARG (R57). A command without operand carries none. -/
inductive Instr where
  | bufClr
  | bufPush (b : Byte)
  | bufRead (i : Byte)
  | crcInit
  | crcUpdate (b : Byte)
  | crcCompute
  | crcVerify
  | frmEncode
  | frmDecode (c : Byte)
  | valDecode (c : Byte)
  | regRead (r : Byte)
  | rst
  deriving DecidableEq, Repr

/-- The fields of a command word as they stand: OP 15:12, RSV 11:8, ARG 7:0 (R56). -/
structure RawCommand where
  op  : Nibble
  rsv : Nibble
  arg : Byte
  deriving DecidableEq, Repr

/-- Why a word is malformed (R59). All three are the one illegal command of R64; which is named when several hold
cannot be observed. -/
inductive Malformed where
  /-- OP is `0x0`, `0xC`, `0xD` or `0xE`. -/
  | reservedOpcode
  /-- RSV is not zero. -/
  | reservedBits
  /-- The command takes no operand and ARG is not zero. -/
  | unusedOperand
  deriving DecidableEq, Repr

end Sys2Proof
end

