-- ==== Sys2Proof/WellFormed.lean ====
section
/-! DEFINITION. Well-formedness of a command (`30_encoding.md` R59), check by check, over the fields of a word.
An `Instr` carries nothing but an operand byte, so every `Instr` is well-formed (`Laws/PerInstr.lean`); what can be
ill-formed is a `RawCommand`. Only statements use these checks: the decoder is written on its own, from R59. -/

namespace Sys2Proof

/-- OP is one of the twelve of R57. -/
def RawCommand.opcodeDefined (c : RawCommand) : Bool :=
  !(c.op == 0x0#4 || c.op == 0xC#4 || c.op == 0xD#4 || c.op == 0xE#4)

/-- RSV is zero (R56). -/
def RawCommand.reservedZero (c : RawCommand) : Bool := c.rsv == 0#4

/-- The opcode takes an operand (the column ARG of R57). -/
def RawCommand.takesOperand (c : RawCommand) : Bool :=
  c.op == 0x2#4 || c.op == 0x3#4 || c.op == 0x5#4 || c.op == 0x9#4 || c.op == 0xA#4 || c.op == 0xB#4

/-- ARG is zero where the opcode takes no operand (R56). -/
def RawCommand.operandAllowed (c : RawCommand) : Bool := c.takesOperand || c.arg == 0#8

/-- The word is well-formed (R59). -/
def RawCommand.wf (c : RawCommand) : Bool := c.opcodeDefined && c.reservedZero && c.operandAllowed

/-- The fields a command's word has (R57). -/
def Instr.raw : Instr → RawCommand
  | .bufClr      => ⟨0x1#4, 0#4, 0#8⟩
  | .bufPush b   => ⟨0x2#4, 0#4, b⟩
  | .bufRead i   => ⟨0x3#4, 0#4, i⟩
  | .crcInit     => ⟨0x4#4, 0#4, 0#8⟩
  | .crcUpdate b => ⟨0x5#4, 0#4, b⟩
  | .crcCompute  => ⟨0x6#4, 0#4, 0#8⟩
  | .crcVerify   => ⟨0x7#4, 0#4, 0#8⟩
  | .frmEncode   => ⟨0x8#4, 0#4, 0#8⟩
  | .frmDecode c => ⟨0x9#4, 0#4, c⟩
  | .valDecode c => ⟨0xA#4, 0#4, c⟩
  | .regRead r   => ⟨0xB#4, 0#4, r⟩
  | .rst         => ⟨0xF#4, 0#4, 0#8⟩

/-- The command's fields pass every check. -/
def Instr.wf (i : Instr) : Bool := i.raw.wf

end Sys2Proof
end

