-- ==== Sys2Proof/Decode.lean ====
section
/-! DEFINITION. The decoder of command words, total (`30_encoding.md` R59), and the encoder after it (R57). A word
is a plain number and has no byte order (`20_memory.md` R46), so both work on the 16 bits. -/

namespace Sys2Proof

/-- OP, bits 15:12 (R56). -/
def opField (w : Half) : Nibble := w.extractLsb' 12 4

/-- RSV, bits 11:8 (R56). -/
def rsvField (w : Half) : Nibble := w.extractLsb' 8 4

/-- ARG, bits 7:0 (R56). -/
def argField (w : Half) : Byte := w.extractLsb' 0 8

/-- A command without operand: ARG must be zero (R56). -/
def noOperand (arg : Byte) (i : Instr) : Except Malformed Instr :=
  if arg = 0#8 then .ok i else .error .unusedOperand

/-- The opcode map of R57 with the operand byte; the four opcodes it leaves out are reserved. -/
def decodeOp (op : Nibble) (arg : Byte) : Except Malformed Instr :=
  match op.toNat with
  | 1  => noOperand arg .bufClr
  | 2  => .ok (.bufPush arg)
  | 3  => .ok (.bufRead arg)
  | 4  => noOperand arg .crcInit
  | 5  => .ok (.crcUpdate arg)
  | 6  => noOperand arg .crcCompute
  | 7  => noOperand arg .crcVerify
  | 8  => noOperand arg .frmEncode
  | 9  => .ok (.frmDecode arg)
  | 10 => .ok (.valDecode arg)
  | 11 => .ok (.regRead arg)
  | 15 => noOperand arg .rst
  | _  => .error .reservedOpcode

/-- Decoding is total: any word is a command of R57 or malformed, by name (R59). -/
def decode (w : Half) : Except Malformed Instr :=
  if rsvField w = 0#4 then decodeOp (opField w) (argField w) else .error .reservedBits

/-- A command word from its opcode and operand; RSV is zero (R56). -/
def commandWord (op : Nibble) (arg : Byte) : Half := (op ++ 0#4) ++ arg

/-- The word of each command (R57). -/
def encode : Instr → Half
  | .bufClr      => commandWord 0x1#4 0#8
  | .bufPush b   => commandWord 0x2#4 b
  | .bufRead i   => commandWord 0x3#4 i
  | .crcInit     => commandWord 0x4#4 0#8
  | .crcUpdate b => commandWord 0x5#4 b
  | .crcCompute  => commandWord 0x6#4 0#8
  | .crcVerify   => commandWord 0x7#4 0#8
  | .frmEncode   => commandWord 0x8#4 0#8
  | .frmDecode c => commandWord 0x9#4 c
  | .valDecode c => commandWord 0xA#4 c
  | .regRead r   => commandWord 0xB#4 r
  | .rst         => commandWord 0xF#4 0#8

/-- The command word of a table row: its bits are `w`, any bit above `nbits` is zero. -/
def tableWord (nbits w : Nat) : Half := BitVec.ofNat 16 (w % 2 ^ nbits)

/-- What the decoder reads from a table row's bits. -/
def decodeTableWord (nbits w : Nat) : Option Instr := (decode (tableWord nbits w)).toOption

/-- The mnemonic of a command (R57). -/
def Instr.mnemonic : Instr → String
  | .bufClr      => "BUF.CLR"
  | .bufPush _   => "BUF.PUSH"
  | .bufRead _   => "BUF.READ"
  | .crcInit     => "CRC.INIT"
  | .crcUpdate _ => "CRC.UPDATE"
  | .crcCompute  => "CRC.COMPUTE"
  | .crcVerify   => "CRC.VERIFY"
  | .frmEncode   => "FRM.ENCODE"
  | .frmDecode _ => "FRM.DECODE"
  | .valDecode _ => "VAL.DECODE"
  | .regRead _   => "REG.READ"
  | .rst         => "RST"

/-- One hexadecimal digit. -/
def hexDigit (n : Nat) : String :=
  match n with
  | 10 => "A" | 11 => "B" | 12 => "C" | 13 => "D" | 14 => "E" | 15 => "F"
  | n => toString n

/-- An operand byte as the spec writes it (R66): `0x50`. -/
def hexByte (b : Byte) : String := "0x" ++ hexDigit (b.toNat / 16) ++ hexDigit (b.toNat % 16)

/-- A listing line (R66): the mnemonic, and the operand in hexadecimal where there is one. -/
def Instr.listing (i : Instr) : String :=
  match i with
  | .bufPush x | .bufRead x | .crcUpdate x | .frmDecode x | .valDecode x | .regRead x =>
      i.mnemonic ++ " " ++ hexByte x
  | .bufClr | .crcInit | .crcCompute | .crcVerify | .frmEncode | .rst => i.mnemonic

end Sys2Proof
end

