-- ==== Sys2Proof/Machine/Errors.lean ====
section
/-! DEFINITION. The errors a command can raise and their codes (`60_exceptions.md` R137). Codes 11 to 15 belong to
no error. -/

namespace Sys2Proof.Machine

/-- The ten errors (R137); `nak` carries the device's code. -/
inductive Err where
  | truncated
  | checksumMismatch
  | nak (k : Byte)
  | badLength
  | badDigit
  | unknownCommand
  | constructionError
  | illegalOp
  | overflow
  | noFrame
  deriving DecidableEq, Repr

/-- The code of an error (R137). -/
def Err.code : Err → Nibble
  | .truncated         => 1#4
  | .checksumMismatch  => 2#4
  | .nak _             => 3#4
  | .badLength         => 4#4
  | .badDigit          => 5#4
  | .unknownCommand    => 6#4
  | .constructionError => 7#4
  | .illegalOp         => 8#4
  | .overflow          => 9#4
  | .noFrame           => 10#4

/-- The DATA of an error's response word: the NAK code zero-extended, else 0 (R58, R141). -/
def Err.info : Err → Data
  | .nak k             => k.setWidth 32
  | .truncated | .checksumMismatch | .badLength | .badDigit | .unknownCommand
  | .constructionError | .illegalOp | .overflow | .noFrame => 0#32

end Sys2Proof.Machine
end

