-- ==== Sys2Proof/Config.lean ====
section
/-! DEFINITION. The configuration CFG of a block instance as plain data (`00_scope.md` R6, `10_state.md` R30 to
R34). What an implementation fixes stands here as fields, so that a statement about every state is a statement about
every configuration. The spec leaves no RESULT of a command open (`93_implementation_defined.md` part 1), so there is
no opaque free value. What the fields mean (the lookups, the constraints of R33, the example configuration) is in
`Machine/Params.lean`. -/

namespace Sys2Proof

/-- The two encodings of a field (R32): a binary integer, or packed BCD. Floating point is no encoding (D17). -/
inductive Enc where
  | bin
  | bcd
  deriving DecidableEq, Repr

/-- A field descriptor `{W, enc, perm, div, qty}` (R32). `perm[k]` is the index in the field of the byte of
significance `k`. -/
structure FieldDesc where
  width : Nat
  enc   : Enc
  perm  : List Nat
  div   : Nat
  qty   : Byte
  deriving DecidableEq, Repr

/-- A layout: one of the three forms of R32. -/
inductive Layout where
  | energy (tariffs : Nat) (field : FieldDesc)
  | instant (fields : List FieldDesc)
  | datetime
  deriving DecidableEq, Repr

/-- A schema record (R31). -/
structure Schema where
  reqPlen   : Nat
  respDlen  : Nat
  valueRead : Bool
  layout    : Option Layout
  deriving DecidableEq, Repr

/-- CFG (R6). `SCHEMA` and `NAK_CODE` are functions on the 256 codes; here they are tables, read by first match
(DESIGN CHOICE, safe, log 3). The last four fields are the host's alone; `cOpen` is the `c_open` of R162, which the
spec names but does not list in R6 (DESIGN CHOICE, safe, log 13); any schema is accepted for it (DESIGN CHOICE, safe,
log 20). -/
structure Config where
  polyR          : Half
  frameMax       : Nat
  schemaTable    : List (Byte × Schema)
  nakTable       : List (Byte × Byte)
  nakClosed      : Byte
  retryBudget    : Nat
  attemptTimeout : Nat
  cOpen          : Byte
  deriving DecidableEq, Repr

end Sys2Proof
end

