-- ==== Sys2Proof/Machine/Params.lean ====
section
/-! DEFINITION. What the configuration means: the lookups of SCHEMA and NAK_CODE, the constraints of R33, and the
example configuration EXCFG (`10_state.md` R30 to R34, `95_test_vectors.md` section 1). -/

namespace Sys2Proof

/-- `W_MAX`: a field has at most 4 bytes (R6). -/
abbrev wMax : Nat := 4

/-- `VAL_MAX`: there are 16 value slots (R6). -/
abbrev valMax : Nat := 16

/-- `SCHEMA(c)` (R31). -/
def Config.schema (cfg : Config) (c : Byte) : Option Schema := cfg.schemaTable.lookup c

/-- `NAK_CODE(s)`: the device's code when the status byte `s` is a NAK (R34). -/
def Config.nakCode (cfg : Config) (s : Byte) : Option Byte := cfg.nakTable.lookup s

/-- The layout registered for a command code, if there is a schema and it has one (R31, R119 step 1). -/
def Config.layoutOf (cfg : Config) (c : Byte) : Option Layout := (cfg.schema c).bind (·.layout)

/-- The byte length of a layout (R32). -/
def Layout.byteLen : Layout → Nat
  | .energy t d   => t * d.width
  | .instant ds   => (ds.map (·.width)).sum
  | .datetime     => 6

/-- The constraints on a field descriptor (R32). -/
def FieldDesc.valid (d : FieldDesc) : Bool :=
  decide (1 ≤ d.width) && decide (d.width ≤ wMax) && decide (d.perm.length = d.width)
    && d.perm.all (fun j => decide (j < d.width)) && decide d.perm.Nodup
    && decide (1 ≤ d.div) && decide (d.div < 2 ^ 32)

/-- The constraints on a layout (R32). -/
def Layout.valid : Layout → Bool
  | .energy t d => decide (1 ≤ t) && decide (t ≤ valMax) && d.valid
  | .instant ds => decide (1 ≤ ds.length) && decide (ds.length ≤ valMax) && ds.all FieldDesc.valid
  | .datetime   => true

/-- A layout fits its schema: it is legal and as long as the response's data (R33). -/
def Layout.fits (respDlen : Nat) (l : Layout) : Bool := l.valid && decide (l.byteLen = respDlen)

/-- The constraints on a schema record (R33). -/
def Schema.valid (frameMax : Nat) (s : Schema) : Bool :=
  decide (s.reqPlen + 4 ≤ frameMax) && decide (s.respDlen + 4 ≤ frameMax)
    && s.layout.all (Layout.fits s.respDlen)

/-- Every code that has a schema has a legal one (R33); only the codes of the table can have one. -/
def Config.schemasValid (cfg : Config) : Bool :=
  cfg.schemaTable.all fun e => (cfg.schema e.1).all (Schema.valid cfg.frameMax)

/-- The constraints a CFG must meet (R33). -/
def Config.valid (cfg : Config) : Bool :=
  decide (cfg.polyR ≠ 0#16) && decide (4 ≤ cfg.frameMax) && decide (cfg.frameMax ≤ 256) && cfg.schemasValid

/-- The constraints of R6 on the two parameters that only the host reads. What R162 says of the schema of `c_open`, not
value-reading and a response without data, is no constraint of R33 and none here: the handshake runs with whatever
schema `cOpen` has (DESIGN CHOICE, safe, log 20). -/
def Config.hostValid (cfg : Config) : Bool :=
  decide (1 ≤ cfg.retryBudget) && decide (0 < cfg.attemptTimeout)

/-- The byte order `LE` of width `w`: `perm[k] = k` (R32). -/
def permLE (w : Nat) : List Nat := List.range w

/-- The byte order `BE` of width `w`: `perm[k] = w-1-k` (R32). -/
def permBE (w : Nat) : List Nat := (List.range w).map (fun k => w - 1 - k)

/-- The table of EXCFG (`95_test_vectors.md` section 1), the spec's own illustration and no meter's. -/
def exSchemas : List (Byte × Schema) :=
  [ (0x00#8, ⟨0, 0, false, none⟩),
    (0x01#8, ⟨7, 0, false, none⟩),
    (0x04#8, ⟨1, 6, true, some .datetime⟩),
    (0x05#8, ⟨2, 15, true, some (.energy 5 ⟨3, .bcd, permBE 3, 100, 0x01#8⟩)⟩),
    (0x15#8, ⟨2, 16, true, some (.energy 4 ⟨4, .bin, permLE 4, 100, 0x01#8⟩)⟩),
    (0x08#8, ⟨2, 11, true, some (.instant
      [ ⟨3, .bin, permLE 3, 100, 0x02#8⟩, ⟨3, .bin, permLE 3, 1000, 0x03#8⟩,
        ⟨3, .bin, permLE 3, 100, 0x04#8⟩, ⟨2, .bin, permBE 2, 100, 0x06#8⟩ ])⟩) ]

/-- The NAK codes of EXCFG: `0xF0` to `0xFF` carry their low nibble. -/
def exNaks : List (Byte × Byte) :=
  (List.range 16).map fun k => (BitVec.ofNat 8 (0xF0 + k), BitVec.ofNat 8 k)

/-- EXCFG (`95_test_vectors.md` section 1). POLY_R is the default of R6, general knowledge and not from the source
(PRESUMED by the spec, G1; log 2); ATTEMPT_TIMEOUT is "any" there and 1 here (DESIGN CHOICE, safe, log 2). -/
def excfg : Config :=
  { polyR := 0xA001#16, frameMax := 256, schemaTable := exSchemas, nakTable := exNaks,
    nakClosed := 0x05#8, retryBudget := 3, attemptTimeout := 1, cOpen := 0x01#8 }

end Sys2Proof
end

