-- ==== Sys2Proof/Machine/State.lean ====
section
/-! DEFINITION. The state: the block of `10_state.md` R13 (configuration, frame buffer, registers), the command
interface that carries command words in and response words out, and the host agent of
`44_host_session_exchange.md`. Reset is R29. INVENTORY.md lists every field with its rule. -/

namespace Sys2Proof.Machine

/-- The frame buffer BUF: the bytes that are not 0, at rising addresses (R16, R41). A byte that is not listed reads
as 0, the reset value that R29 asks of a model that stores the bytes (log 7). -/
abbrev Memory := List Host.Cell

/-- The canonical form: addresses strictly rise and no entry holds the value an unlisted address reads as. -/
abbrev Memory.wf (m : Memory) : Prop := m.Pairwise (fun x y => x.1 < y.1) ∧ ∀ c ∈ m, c.2 ≠ 0#8

/-- ST, field by field (R18). The reserved bits 7 and 31:12 read 0 and nothing writes them, so no field holds them
(log 10); the word software reads is `Status.word`. -/
structure Status where
  err    : Nibble
  ok     : Bool
  rValid : Bool
  vValid : Bool
  lastOp : Nibble
  deriving DecidableEq, Repr

/-- ST after a hardware reset: all 0 (R29). -/
def Status.zero : Status := ⟨0#4, false, false, false, 0#4⟩

/-- The response registers R_ADDR, R_STAT, P_LEN (R20). -/
structure RespRegs where
  addr : Byte
  stat : Byte
  plen : Nat
  deriving DecidableEq, Repr

/-- The response registers all 0. -/
def RespRegs.zero : RespRegs := ⟨0#8, 0#8, 0⟩

/-- V_KIND: the form of a Measurement (R22). -/
inductive VKind where
  | none
  | energy
  | instant
  | datetime
  deriving DecidableEq, Repr

/-- The value registers V_KIND, V_CNT, V_RAW, V_DIV, V_QTY (R22). -/
structure ValRegs where
  kind : VKind
  cnt  : BitVec 5
  raw  : Vector Data 16
  div  : Vector Data 16
  qty  : Vector Byte 16
  deriving DecidableEq, Repr

/-- The value registers all 0. -/
def ValRegs.zero : ValRegs :=
  ⟨.none, 0#5, Vector.replicate 16 0#32, Vector.replicate 16 0#32, Vector.replicate 16 0#8⟩

/-- A response word: OK, ERR, DATA (R58). -/
structure Response where
  ok   : Bool
  err  : Nibble
  data : Data
  deriving DecidableEq, Repr

/-- What happens at the block's port between commands: a command word (R56), the hardware reset input (R186), or a
restart of the host that presents the words (R188; log 21). -/
inductive PortEvent where
  | command (w : Half)
  | hardwareReset
  | hostRestart
  deriving DecidableEq, Repr

/-- One value slot of a Measurement (R22, R121, R122, R125). -/
structure Slot where
  raw : Data
  div : Data
  qty : Byte
  deriving DecidableEq, Repr

/-- A Measurement: its kind and its slots (R119). -/
structure Measurement where
  kind  : VKind
  slots : List Slot
  deriving DecidableEq, Repr

/-- The Session Manager's states (R158). -/
inductive SessionPhase where
  | closed
  | opening
  | opened
  deriving DecidableEq, Repr

/-- The source's Session, with the parameters of the last open_channel (R158). `is_open` is true exactly in state
Open, so it is a view of `phase` (`Session.isOpen`). -/
structure Session where
  phase      : SessionPhase
  address    : Byte
  openedAt   : Nat
  openParams : List Byte
  deriving DecidableEq, Repr

/-- The session before the first open_channel: Closed (R29, R158, R188). The address, the time and the parameters have
no stated start (DESIGN CHOICE, unsafe, log 14). -/
def Session.initial : Session := ⟨.closed, 0#8, 0, []⟩

/-- `is_open` (R158). -/
def Session.isOpen (x : Session) : Bool := x.phase == .opened

/-- One pass of the attempt loop: the request, its encoded frame, the bytes to ask for, and the loop's two variables
(R165, R166, R168). -/
structure Exchange where
  command  : Byte
  params   : List Byte
  frame    : List Byte
  nExp     : Nat
  attempts : Nat
  reopened : Bool
  deriving DecidableEq, Repr

/-- No pass. -/
def Exchange.empty : Exchange := ⟨0#8, [], [], 0, 0, false⟩

/-- What the pass under way is for: an `execute`, an `open_channel`, or the reopening inside the `execute` it
keeps (R162, R172). -/
inductive Task where
  | exchange
  | handshake
  | reopening (outer : Exchange)
  deriving DecidableEq, Repr

/-- Where the engine stands in R165 and R166. In the phases named after commands it waits for their response
words. -/
inductive Phase where
  | idle
  /-- REQUEST is issued (R165). -/
  | encoding
  /-- The first command of DUMP, REG.READ of LEN, is issued (R67). -/
  | dumpLength
  /-- The `n` BUF.READ of DUMP are issued. -/
  | dumpBytes (n : Nat)
  /-- Before the write of an attempt. -/
  | sending
  /-- Between the write and the end of the read. -/
  | receiving
  /-- Between the write and the end of the read of an attempt that a restart of the host has cut off (log 22). -/
  | draining
  /-- RESPONSE is issued. -/
  | decoding
  /-- VAL.DECODE is issued. -/
  | valuing
  /-- REG.READ of V_KIND and V_CNT are issued. -/
  | readKind
  /-- REG.READ of the raws, the divisors and the quantities of `n` slots are issued. -/
  | readSlots (kind : VKind) (n : Nat)
  deriving DecidableEq, Repr

/-- One answer of the transport to a read: the bytes the read returns, and how long it took (R157). Bytes count as
returned in time whatever the delay (DESIGN CHOICE, unsafe, log 19). -/
structure Answer where
  bytes : List Byte
  delay : Nat
  deriving DecidableEq, Repr

/-- What the caller asks of the host (R162, R163). -/
inductive Call where
  | openChannel (address : Byte) (params : List Byte)
  | execute (command : Byte) (params : List Byte)
  deriving DecidableEq, Repr

/-- The host's failures (R174). `decodeFailed` carries the block's error by its code of R137. -/
inductive Failure where
  | channelNotOpen
  | constructionError
  | timeout
  | corruptResponse
  | rejected (k : Byte)
  | decodeFailed (code : Nibble)
  | openRejected
  | openTimeout
  deriving DecidableEq, Repr

/-- What a call returns (R162, R163). -/
inductive CallResult where
  | opened
  | measured (m : Measurement)
  | failed (f : Failure)
  deriving DecidableEq, Repr

/-- The host agent with what it hears from and tells its caller and its transport (R27, R156, R157). -/
structure Agent where
  session : Session
  phase   : Phase
  task    : Task
  cur     : Exchange
  calls   : List Call
  results : List CallResult
  inbox   : List Answer
  writes  : List (List Byte)
  now     : Nat
  deriving DecidableEq, Repr

/-- The host before its first call: the session is Closed (R29, R158). -/
def Agent.initial : Agent :=
  { session := .initial, phase := .idle, task := .exchange, cur := .empty,
    calls := [], results := [], inbox := [], writes := [], now := 0 }

/-- The whole state. `issue` and `rsps` are the command interface: what is still presented to the block, in order,
and the response words it has answered, newest first (log 5, log 6). -/
structure State where
  cfg   : Config
  mem   : Memory
  len   : Nat
  crc   : Half
  st    : Status
  resp  : RespRegs
  nakc  : Byte
  val   : ValRegs
  issue : List PortEvent
  rsps  : List Response
  agent : Agent
  deriving DecidableEq, Repr

/-- Why the machine stops with a fault. Both are of the model: the spec gives `MemRead` and `MemWrite` no meaning
outside their ranges (R8, R41; log 8). Safe: no state that meets the invariant gets there. -/
inductive Fault where
  /-- A MemRead past the content; raised by `BUF.READ` and `VAL.DECODE` in no reachable state. -/
  | bufferRead
  /-- A MemWrite past FRAME_MAX; raised by `BUF.PUSH` and `FRM.ENCODE` in no reachable state. -/
  | bufferWrite
  deriving DecidableEq, Repr

/-- Why the machine gives no behaviour. -/
inductive Refusal where
  /-- The instruction has no meaning yet; raised by no arm. Safe. -/
  | notModelled (mnemonic : String)
  /-- CFG breaks a constraint of R33, and such an instance has no behaviour (R30, R189). Raised by the step. Safe. -/
  | invalidConfig
  /-- The host is to act and RETRY_BUDGET or ATTEMPT_TIMEOUT breaks its constraint of R6. Raised by the step where
  it is the host's move. Safe. -/
  | invalidHostParams
  deriving DecidableEq, Repr

/-- A block instance with configuration `cfg` right after hardware reset, its host not started (R29, R186). -/
def State.resetWith (cfg : Config) : State :=
  { cfg := cfg, mem := [], len := 0, crc := 0xFFFF#16, st := .zero, resp := .zero, nakc := 0#8, val := .zero,
    issue := [], rsps := [], agent := .initial }

/-- The machine right after reset, with the spec's example configuration (DESIGN CHOICE, unsafe, log 2: CFG is a
parameter; statements quantify over it). -/
def State.reset : State := .resetWith excfg

end Sys2Proof.Machine
end

