-- ==== Sys2Proof/Machine/Flags.lean ====
section
/-! DEFINITION. The status register: the word software reads (`10_state.md` R18), which commands record into it
(R19), and the response word packed (`30_encoding.md` R58). -/

namespace Sys2Proof.Machine

/-- A bit as a 32-bit number. -/
def bit32 (b : Bool) : Data := (BitVec.ofBool b).setWidth 32

/-- ST as REG.READ gives it: ERR 3:0, OK 4, R_VALID 5, V_VALID 6, LAST_OP 11:8, the rest 0 (R18). -/
def Status.word (st : Status) : Data :=
  st.err.setWidth 32 ||| (bit32 st.ok <<< 4) ||| (bit32 st.rValid <<< 5) ||| (bit32 st.vValid <<< 6)
    ||| (st.lastOp.setWidth 32 <<< 8)

/-- A recorded command: any opcode field but those of BUF.READ and REG.READ (R19). -/
def recorded (op : Nibble) : Bool := !(op == 0x3#4 || op == 0xB#4)

/-- What a command leaves in LAST_OP, OK and ERR: its opcode and its outcome, if it is recorded (R19). -/
def Status.record (st : Status) (op : Nibble) (r : Response) : Status :=
  if recorded op then { st with lastOp := op, ok := r.ok, err := r.err } else st

/-- The response word of a success: OK = 1, ERR = 0 (R58). -/
def Response.success (data : Data) : Response := ⟨true, 0#4, data⟩

/-- The response word of an error (R58, R141). -/
def Response.error (e : Err) : Response := ⟨false, e.code, e.info⟩

/-- The response word packed in 40 bits: 39:37 zero, OK 36, ERR 35:32, DATA 31:0 (R58). -/
def Response.packed (r : Response) : BitVec 40 :=
  r.data.setWidth 40 ||| (r.err.setWidth 40 <<< 32) ||| ((BitVec.ofBool r.ok).setWidth 40 <<< 36)

/-- The number of a kind in V_KIND (R22). -/
def VKind.code : VKind → BitVec 2
  | .none     => 0#2
  | .energy   => 1#2
  | .instant  => 2#2
  | .datetime => 3#2

/-- The kind a number in V_KIND names (R22). -/
def VKind.ofCode (n : BitVec 2) : VKind :=
  if n = 0#2 then .none else if n = 1#2 then .energy else if n = 2#2 then .instant else .datetime

end Sys2Proof.Machine
end

