-- ==== Sys2Proof/Machine/Ops.lean ====
section
/-! DEFINITION. The named operations over the buffer and the registers: reading and writing bytes of BUF
(`20_memory.md` R41), taking what is presented at the port, dropping the verified response (`10_state.md` R20) and the
values (R22), the end of a command in success, and RAISING AN ERROR (`60_exceptions.md` R141). There is no return from
an error (R142): the next recorded command overwrites its trace in ST. -/

namespace Sys2Proof.Machine

/-- The byte at an address: 0 where none is listed. -/
def Memory.read : Memory → Nat → Byte
  | [], _ => 0#8
  | (k, v) :: m, a => if a = k then v else Memory.read m a

/-- An entry put in front, unless it holds what an unlisted address reads as. -/
def Memory.cons (a : Nat) (b : Byte) (m : Memory) : Memory := if b = 0#8 then m else (a, b) :: m

/-- One byte written, in the canonical form. -/
def Memory.write : Memory → Nat → Byte → Memory
  | [], a, b => Memory.cons a b []
  | (k, v) :: m, a, b =>
      if a < k then Memory.cons a b ((k, v) :: m)
      else if a = k then Memory.cons a b m
      else (k, v) :: Memory.write m a b

/-- `n` bytes from an address on. -/
def Memory.readBytes (m : Memory) (a : Nat) : Nat → List Byte
  | 0 => []
  | n + 1 => m.read a :: m.readBytes (a + 1) n

/-- Bytes written from an address on. -/
def Memory.writeBytes (m : Memory) (a : Nat) : List Byte → Memory
  | [] => m
  | b :: bs => (m.write a b).writeBytes (a + 1) bs

/-- The content of the buffer, `BUF[0..LEN-1]` (R16). -/
def State.content (s : State) : List Byte := s.mem.readBytes 0 s.len

/-- `MemRead(addr, n)`, defined only when `addr + n <= LEN` (R41). -/
def State.memRead (s : State) (addr n : Nat) : Option (List Byte) :=
  if addr + n ≤ s.len then some (s.mem.readBytes addr n) else none

/-- `MemWrite(addr, n, bs)`, defined only when `addr + n <= FRAME_MAX` (R41). -/
def State.memWrite (s : State) (addr : Nat) (bs : List Byte) : Option State :=
  if addr + bs.length ≤ s.cfg.frameMax then some { s with mem := s.mem.writeBytes addr bs } else none

/-- What the gate of R20 does first: R_VALID, R_ADDR, R_STAT, P_LEN become 0. -/
def State.clearResponse (s : State) : State := { s with st := { s.st with rValid := false }, resp := .zero }

/-- What VAL.DECODE does first: V_VALID and every value register become 0 (R22, R118). -/
def State.clearValues (s : State) : State := { s with st := { s.st with vValid := false }, val := .zero }

/-- The end of every command: ST records it if it is recorded (R19), and its response word is given (R58). -/
def State.finish (s : State) (op : Nibble) (r : Response) : State :=
  { s with st := s.st.record op r, rsps := r :: s.rsps }

/-- A command succeeds with DATA. -/
def State.succeed (s : State) (op : Nibble) (data : Data) : Host.Outcome State Fault Refusal :=
  .next (s.finish op (.success data))

/-- `raise E` (R141): what was assigned before stands, ST records the failure, the response word names the error, and
the block is ready for the next command at once. -/
def State.raise (s : State) (op : Nibble) (e : Err) : Host.Outcome State Fault Refusal :=
  .next (s.finish op (.error e))

/-- Every piece of the block's state at its hardware reset value (R29, R186). CFG is untouched, and so are the
command interface and the host, which are not the block's (R188). -/
def State.resetBlock (s : State) : State :=
  { s with mem := [], len := 0, crc := 0xFFFF#16, st := .zero, resp := .zero, nakc := 0#8, val := .zero }

/-- What is presented at the port, taken from it. -/
def State.takeEvent (s : State) : Option (PortEvent × State) :=
  match s.issue with
  | [] => none
  | e :: es => some (e, { s with issue := es })

end Sys2Proof.Machine
end

