-- ==== Sys2Proof/Machine/Bits.lean ====
section
/-! DEFINITION. The slices and joins of `00_scope.md` R8 and `20_memory.md` R45. -/

namespace Sys2Proof.Machine

/-- `lo8(v) = v[7:0]` (R8). -/
def lo8 (v : Half) : Byte := v.extractLsb' 0 8

/-- `hi8(v) = v[15:8]` (R8). -/
def hi8 (v : Half) : Byte := v.extractLsb' 8 8

/-- `hi_nib(b) = b[7:4]` (R8). -/
def hiNib (b : Byte) : Nibble := b.extractLsb' 4 4

/-- `lo_nib(b) = b[3:0]` (R8). -/
def loNib (b : Byte) : Nibble := b.extractLsb' 0 4

/-- A 16-bit number from its two bytes, low byte first: `zext_16(lo) | (zext_16(hi) << 8)` (R45). -/
def join16 (lo hi : Byte) : Half := lo.setWidth 16 ||| (hi.setWidth 16 <<< 8)

/-- The two bytes of a 16-bit number, low byte first (R45). -/
def split16 (v : Half) : List Byte := [lo8 v, hi8 v]

end Sys2Proof.Machine
end

