-- ==== Sys2Proof/Machine/Value.lean ====
section
/-! DEFINITION. The pure functions of the Value Decoder (`43_value_decoder.md` R117, R119 to R125). All three
layouts are a list of fields: T times one descriptor (R121), the listed descriptors (R122), or six one-byte BCD
fields of divisor 1 (R125). -/

namespace Sys2Proof.Machine

/-- Both nibbles are decimal digits (R117). -/
def bcdOk (b : Byte) : Bool := decide ((hiNib b).toNat ≤ 9) && decide ((loNib b).toNat ≤ 9)

/-- The number of a packed BCD byte, high nibble the tens (R117). -/
def bcd2 (b : Byte) : Nat := 10 * (hiNib b).toNat + (loNib b).toNat

/-- `field_ok(d, x)` (R120). -/
def fieldOk (d : FieldDesc) (x : List Byte) : Bool :=
  match d.enc with
  | .bcd => x.all bcdOk
  | .bin => true

/-- The weight base of an encoding: 256 for BIN, 100 for BCD (R32). -/
def Enc.base : Enc → Nat
  | .bin => 256
  | .bcd => 100

/-- The number a byte of a field stands for (R120). -/
def Enc.digit : Enc → Byte → Nat
  | .bin, b => b.toNat
  | .bcd, b => bcd2 b

/-- `field_raw(d, x)`: the sum over `k < W` of the byte of significance `k` times its weight (R120). -/
def fieldRaw (d : FieldDesc) (x : List Byte) : Nat :=
  ((List.range d.width).map fun k => Enc.digit d.enc (x.getD (d.perm.getD k 0) 0#8) * Enc.base d.enc ^ k).sum

/-- The descriptors of DATETIME: seconds, minutes, hours, day, month, year (R125, R35). -/
def datetimeFields : List FieldDesc :=
  [0x10#8, 0x11#8, 0x12#8, 0x13#8, 0x14#8, 0x15#8].map fun q => ⟨1, .bcd, [0], 1, q⟩

/-- The fields of a layout in payload order (R121, R122, R125). -/
def layoutFields : Layout → List FieldDesc
  | .energy t d => List.replicate t d
  | .instant ds => ds
  | .datetime   => datetimeFields

/-- The kind of a layout's Measurement (R121, R122, R125). -/
def layoutKind : Layout → VKind
  | .energy _ _ => .energy
  | .instant _  => .instant
  | .datetime   => .datetime

/-- The payload cut into the fields, each taking the next `W` bytes (R119 step 3). -/
def cutFields : List FieldDesc → List Byte → List (FieldDesc × List Byte)
  | [], _ => []
  | d :: ds, q => (d, q.take d.width) :: cutFields ds (q.drop d.width)

/-- The slot of one field: raw, divisor, quantity (R121, R122, R125). -/
def fieldSlot (e : FieldDesc × List Byte) : Slot :=
  ⟨BitVec.ofNat 32 (fieldRaw e.1 e.2), BitVec.ofNat 32 e.1.div, e.1.qty⟩

/-- `value_decode(c, q)`, the checks in the order of R119. -/
def valueDecode (cfg : Config) (c : Byte) (q : List Byte) : Except Err Measurement :=
  match cfg.layoutOf c with
  | none => .error .unknownCommand
  | some l =>
      if q.length ≠ l.byteLen then .error .badLength
      else if (cutFields (layoutFields l) q).all (fun e => fieldOk e.1 e.2) = false then .error .badDigit
      else .ok ⟨layoutKind l, (cutFields (layoutFields l) q).map fieldSlot⟩

/-- The value registers that hold a Measurement: slot `i` in element `i`, 0 beyond the last (R22, R118). -/
def Measurement.regs (m : Measurement) : ValRegs :=
  { kind := m.kind
    cnt := BitVec.ofNat 5 m.slots.length
    raw := Vector.ofFn fun i => ((m.slots[i.val]?).map (·.raw)).getD 0#32
    div := Vector.ofFn fun i => ((m.slots[i.val]?).map (·.div)).getD 0#32
    qty := Vector.ofFn fun i => ((m.slots[i.val]?).map (·.qty)).getD 0#8 }

end Sys2Proof.Machine
end

