-- ==== Sys2Proof/Machine/Agent.lean ====
section
/-! DEFINITION. The host agent, outside the block: Session Manager and Exchange Engine, move by move
(`44_host_session_exchange.md`), and the pseudo-commands it issues (`30_encoding.md` R67). A move issues commands, or
makes one call of the transport, or ends a call of the caller; while commands are issued and not yet answered the host
waits (`70_reset_and_hazards.md` R192), since the step gives the presented words to the block first (log 11). -/

namespace Sys2Proof.Machine

/-- `LOAD b0 ... bk` (R67). The host does not look at the responses to the BUF.PUSH: an Overflow among them shows only
in what FRM.ENCODE or FRM.DECODE then answers (DESIGN CHOICE, unsafe, log 23). -/
def loadCmds (bs : List Byte) : List Instr := .bufClr :: bs.map .bufPush

/-- The second part of `DUMP`: `BUF.READ 0` to `BUF.READ n-1` (R67). -/
def dumpCmds (n : Nat) : List Instr := (List.range n).map fun k => .bufRead (BitVec.ofNat 8 k)

/-- `CRC.STREAM b0 ... bk` (R67). -/
def streamCmds (bs : List Byte) : List Instr := .crcInit :: bs.map .crcUpdate

/-- `REQUEST a c p0 ... pk` (R67). -/
def requestCmds (a c : Byte) (p : List Byte) : List Instr := loadCmds (a :: c :: p) ++ [.frmEncode]

/-- `RESPONSE c r0 ... rk` (R67). -/
def responseCmds (c : Byte) (rx : List Byte) : List Instr := loadCmds rx ++ [.frmDecode c]

/-- The reads of V_KIND and V_CNT (R24). -/
def kindCmds : List Instr := [.regRead 0x07#8, .regRead 0x08#8]

/-- The reads of `n` slots: the raws, then the divisors, then the quantities (R24; program P6 of
`95_test_vectors.md`). -/
def slotCmds (n : Nat) : List Instr :=
  ((List.range n).map fun k => .regRead (BitVec.ofNat 8 (0x10 + k)))
    ++ ((List.range n).map fun k => .regRead (BitVec.ofNat 8 (0x20 + k)))
    ++ ((List.range n).map fun k => .regRead (BitVec.ofNat 8 (0x50 + k)))

/-- The host issues commands and waits in `ph` for their responses. -/
def State.issueCmds (s : State) (is : List Instr) (ph : Phase) : State :=
  { s with issue := s.issue ++ is.map (fun i => .command (encode i)), agent := { s.agent with phase := ph } }

/-- The host goes to `ph`. -/
def State.toPhase (s : State) (ph : Phase) : State := { s with agent := { s.agent with phase := ph } }

/-- The Session Manager goes to state `p`. -/
def State.toSession (s : State) (p : SessionPhase) : State :=
  { s with agent := { s.agent with session := { s.agent.session with phase := p } } }

/-- The caller's call returns `r`; the engine is idle again. -/
def State.endCall (s : State) (r : CallResult) : State :=
  { s with agent := { s.agent with phase := .idle, task := .exchange, cur := .empty, results := r :: s.agent.results } }

/-- A pass's failure as the handshake reports it: OpenTimeout, OpenRejected, any other unchanged (R162). -/
def handshakeFailure : Failure → Failure
  | .timeout          => .openTimeout
  | .rejected _       => .openRejected
  | .channelNotOpen   => .channelNotOpen
  | .constructionError => .constructionError
  | .corruptResponse  => .corruptResponse
  | .decodeFailed e   => .decodeFailed e
  | .openRejected     => .openRejected
  | .openTimeout      => .openTimeout

/-- The pass fails for good: an `execute` returns the failure (R166); a handshake, whoever asked for it, leaves the
session Closed and returns its own view of it (R162, R172). -/
def State.failPass (s : State) (f : Failure) : State :=
  match s.agent.task with
  | .exchange => s.endCall (.failed f)
  | .handshake | .reopening _ => (s.toSession .closed).endCall (.failed (handshakeFailure f))

/-- A retried failure: again while attempts are left, else the failure (R166, R167, R171). -/
def State.retryOrFail (s : State) (f : Failure) : State :=
  if s.agent.cur.attempts < s.cfg.retryBudget then s.toPhase .sending else s.failPass f

/-- A pass begins: its REQUEST is issued (R165). -/
def State.startPass (s : State) (t : Task) (c : Byte) (params : List Byte) : State :=
  { s with agent := { s.agent with task := t, cur := { Exchange.empty with command := c, params := params } } }.issueCmds
    (requestCmds s.agent.session.address c params) .encoding

/-- `open_channel(address, params)` begins: state Opening, the parameters are kept, the attempt loop runs with
`c_open`, whatever its schema says of a value or of response data (R158, R162; log 20). -/
def State.openChannel (s : State) (t : Task) (address : Byte) (params : List Byte) : State :=
  { s with agent := { s.agent with session :=
      { s.agent.session with phase := .opening, address := address, openParams := params } } }.startPass
    t s.cfg.cOpen params

/-- The next call of the caller: `open_channel` (R162), or `execute`, which needs an open session and else fails at
once, with no command and no I/O (R164). -/
def State.startCall (s : State) : State :=
  match s.agent.calls with
  | [] => s
  | .openChannel a p :: cs => { s with agent := { s.agent with calls := cs } }.openChannel .handshake a p
  | .execute c p :: cs =>
      if s.agent.session.isOpen then { s with agent := { s.agent with calls := cs } }.startPass .exchange c p
      else { s with agent := { s.agent with calls := cs } }.endCall (.failed .channelNotOpen)

/-- REQUEST is answered: the frame is read out, or the call fails with ConstructionError and no I/O (R165). The
expected length is `resp_dlen + 4` (R168). -/
def State.onEncoded (s : State) (r : Response) : State :=
  match s.cfg.schema s.agent.cur.command with
  | some x =>
      if r.ok then
        { s with agent := { s.agent with cur := { s.agent.cur with nExp := x.respDlen + 4 } } }.issueCmds
          [.regRead 0x02#8] .dumpLength
      else s.failPass .constructionError
  | none => s.failPass .constructionError

/-- The frame's bytes have been read out; the host keeps them, for BUF is reused (R165). It takes the DATA of each
response whatever its OK says, so a BUF.READ that answers IllegalOp, as after a hardware reset inside DUMP, gives the
byte 0: the spec says only that a correct host never sees that error (R143; DESIGN CHOICE, unsafe, log 23). -/
def State.keepFrame (s : State) (n : Nat) : State :=
  { s with agent := { s.agent with
      cur := { s.agent.cur with frame := ((s.rsps.take n).reverse).map fun r => r.data.setWidth 8 }
      phase := .sending } }

/-- `transport.write(frame)`, with the attempt counted (R166). -/
def State.transportWrite (s : State) : State :=
  { s with agent := { s.agent with
      cur := { s.agent.cur with attempts := s.agent.cur.attempts + 1 }
      writes := s.agent.cur.frame :: s.agent.writes
      phase := .receiving } }

/-- What `transport.read_with_timeout(n_exp, ATTEMPT_TIMEOUT)` returns: the next answer, at most `n_exp` bytes of
it; nothing when no answer is left (R157, R168; log 12). The answer's delay is not looked at: bytes whose delay exceeds
ATTEMPT_TIMEOUT are returned whole and make no timeout of R169 (DESIGN CHOICE, unsafe, log 19). -/
def State.readBytes (s : State) : List Byte :=
  match s.agent.inbox with
  | [] => []
  | a :: _ => a.bytes.take s.agent.cur.nExp

/-- How long the read lasts, at most ATTEMPT_TIMEOUT (R169, R177; log 15). -/
def State.readTime (s : State) : Nat :=
  match s.agent.inbox with
  | [] => s.cfg.attemptTimeout
  | a :: _ => min a.delay s.cfg.attemptTimeout

/-- The read over: the answer is used up, the clock has moved. -/
def State.afterRead (s : State) : State :=
  { s with agent := { s.agent with inbox := s.agent.inbox.tail, now := s.agent.now + s.readTime } }

/-- The read of an attempt that a restart cut off comes to its end; what it returns is dropped (log 22). -/
def State.drainRead (s : State) : State := s.afterRead.toPhase .idle

/-- The read of an attempt: no byte is a timeout (R169), anything else goes to the block (R166). -/
def State.transportRead (s : State) : State :=
  if s.readBytes = [] then s.afterRead.retryOrFail .timeout
  else s.afterRead.issueCmds (responseCmds s.agent.cur.command s.readBytes) .decoding

/-- The handshake is acknowledged: the session is Open; `open_channel` returns, or the exchange that reopened runs
again with a fresh counter (R159, R162, R172). -/
def State.sessionOpened (s : State) : State :=
  let t := { s with agent := { s.agent with session :=
    { s.agent.session with phase := .opened, openedAt := s.agent.now } } }
  match s.agent.task with
  | .reopening outer =>
      { t with agent := { t.agent with task := .exchange, cur := { outer with reopened := true, attempts := 0 },
                                       phase := .sending } }
  | .exchange | .handshake => t.endCall .opened

/-- The device answers with NAK `k`: in an `execute`, the closed-channel code closes the session and causes one
reopen, every other code is a rejection (R160, R166, R172); in a handshake every code is (R162). -/
def State.onNak (s : State) (k : Byte) : State :=
  match s.agent.task with
  | .handshake | .reopening _ => s.failPass (.rejected k)
  | .exchange =>
      if k = s.cfg.nakClosed then
        if s.agent.cur.reopened then (s.toSession .closed).failPass (.rejected k)
        else (s.toSession .closed).openChannel (.reopening s.agent.cur) s.agent.session.address
          s.agent.session.openParams
      else s.failPass (.rejected k)

/-- RESPONSE is answered (R166). -/
def State.onDecoded (s : State) (r : Response) : State :=
  if r.ok then
    match s.agent.task with
    | .exchange => s.issueCmds [.valDecode s.agent.cur.command] .valuing
    | .handshake | .reopening _ => s.sessionOpened
  else if r.err = 2#4 then s.retryOrFail .corruptResponse
  else if r.err = 3#4 then s.onNak (r.data.setWidth 8)
  else s.failPass (.decodeFailed r.err)

/-- VAL.DECODE is answered (R166). -/
def State.onValued (s : State) (r : Response) : State :=
  if r.ok then s.issueCmds kindCmds .readKind else s.failPass (.decodeFailed r.err)

/-- V_KIND and V_CNT are read: the slots are read next (R166), however many V_CNT says (log 23). -/
def State.onKind (s : State) (kind cnt : Response) : State :=
  s.issueCmds (slotCmds cnt.data.toNat) (.readSlots (VKind.ofCode (kind.data.setWidth 2)) cnt.data.toNat)

/-- The Measurement in the responses to the reads of `n` slots, oldest first (R22, R166). -/
def slotsOf (rs : List Response) (n : Nat) : List Slot :=
  (List.range n).map fun k =>
    let data := fun j => (rs.getD j (.success 0#32)).data
    ⟨data k, data (n + k), (data (2 * n + k)).setWidth 8⟩

/-- The host's move, by where it stands. A response that is not there is waited for. -/
def State.hostMove (s : State) : State :=
  match s.agent.phase with
  | .idle => s.startCall
  | .encoding => match s.rsps with
    | r :: _ => s.onEncoded r
    | [] => s
  | .dumpLength => match s.rsps with
    | r :: _ => s.issueCmds (dumpCmds r.data.toNat) (.dumpBytes r.data.toNat)
    | [] => s
  | .dumpBytes n => if n ≤ s.rsps.length then s.keepFrame n else s
  | .sending => s.transportWrite
  | .receiving => s.transportRead
  | .draining => s.drainRead
  | .decoding => match s.rsps with
    | r :: _ => s.onDecoded r
    | [] => s
  | .valuing => match s.rsps with
    | r :: _ => s.onValued r
    | [] => s
  | .readKind => match s.rsps with
    | cnt :: kind :: _ => s.onKind kind cnt
    | _ => s
  | .readSlots kind n =>
      if 3 * n ≤ s.rsps.length then
        s.endCall (.measured ⟨kind, slotsOf (s.rsps.take (3 * n)).reverse n⟩)
      else s

/-- A word the host presents, as against what comes from outside it. -/
def PortEvent.isCommand : PortEvent → Bool
  | .command _ => true
  | .hardwareReset | .hostRestart => false

/-- An attempt is between its write and the end of its read (R176). -/
def Phase.inFlight : Phase → Bool
  | .receiving | .draining => true
  | .idle | .encoding | .dumpLength | .dumpBytes _ | .sending | .decoding | .valuing | .readKind
  | .readSlots _ _ => false

/-- Where a restart of the host leaves it: with nothing to do, but for a read in flight, which must end before anything
is written (R52, R176, R194). That the restarted host waits it out is the model's choice among the hosts that keep
these rules (DESIGN CHOICE, unsafe, log 22). -/
def Phase.restarted (p : Phase) : Phase := if p.inFlight then .draining else .idle

/-- The host restarts: the session is Closed and no call is under way, whatever the block and the device hold (R188).
The words it had still to present are gone; the caller's coming calls, the results, the transport and the clock stay
(DESIGN CHOICE, log 21). A read in flight goes on, and its answer is dropped (DESIGN CHOICE, unsafe, log 22). -/
def State.restartHost (s : State) : State :=
  { s with
    issue := s.issue.filter fun e => !e.isCommand
    agent := { s.agent with
      session := .initial, phase := s.agent.phase.restarted, task := .exchange, cur := .empty } }

/-- A restart of the host, as what happens at the port (R188). -/
def hostRestart (s : State) : Host.Outcome State Fault Refusal := .next s.restartHost

/-- Nothing is under way and the caller asks nothing. -/
def Agent.quiet (a : Agent) : Bool := a.phase == .idle && a.calls.isEmpty

/-- The host's turn: nothing to do leaves everything as it is; a host whose own parameters break R6 has no behaviour
(log 4). -/
def agentTurn (s : State) : Host.Outcome State Fault Refusal :=
  if s.agent.quiet then .next s
  else if s.cfg.hostValid then .next s.hostMove
  else .refused .invalidHostParams

end Sys2Proof.Machine
end

