-- ==== Sys2Proof/Machine/BufferCmds.lean ====
section
/-! DEFINITION. The meanings of BUF.CLR, BUF.PUSH and BUF.READ (`41_buffer_system.md` R92 to R94). -/

namespace Sys2Proof.Machine

/-- `BUF.CLR` (R92). The bytes stay where they are, now unobservable (R16; log 7). -/
def execBufClr (s : State) : Host.Outcome State Fault Refusal :=
  { s.clearResponse with len := 0 }.succeed 0x1#4 0#32

/-- `BUF.PUSH b` (R93). -/
def execBufPush (b : Byte) (s : State) : Host.Outcome State Fault Refusal :=
  if s.len = s.cfg.frameMax then s.clearResponse.raise 0x2#4 .overflow
  else match s.clearResponse.memWrite s.len [b] with
    | none => .fault .bufferWrite
    | some t => { t with len := s.len + 1 }.succeed 0x2#4 (BitVec.ofNat 32 (s.len + 1))

/-- `BUF.READ i` (R94). Its opcode is not recorded (R19). -/
def execBufRead (i : Byte) (s : State) : Host.Outcome State Fault Refusal :=
  if s.len ≤ i.toNat then s.raise 0x3#4 .illegalOp
  else match s.memRead i.toNat 1 with
    | some (b :: _) => s.succeed 0x3#4 (b.setWidth 32)
    | _ => .fault .bufferRead

end Sys2Proof.Machine
end

