-- ==== Sys2Proof/Machine/Crc.lean ====
section
/-! DEFINITION. The pure functions of the Checksum Unit (`40_crc.md` R77 to R81). The polynomial POLY_R is an
argument everywhere (R90). -/

namespace Sys2Proof.Machine

/-- One bit step (R77). -/
def crcBit (poly c : Half) : Half := if c.getLsbD 0 then (c >>> 1) ^^^ poly else c >>> 1

/-- `n` bit steps. -/
def crcBits (poly : Half) : Nat → Half → Half
  | 0, c => c
  | n + 1, c => crcBits poly n (crcBit poly c)

/-- One byte step: the byte into the low 8 bits, then eight bit steps (R78). -/
def crcByte (poly c : Half) (b : Byte) : Half := crcBits poly 8 (c ^^^ b.setWidth 16)

/-- The checksum of a byte sequence: byte steps from `0xFFFF`, no final XOR (R79). -/
def crc16 (poly : Half) (s : List Byte) : Half := s.foldl (crcByte poly) 0xFFFF#16

/-- Verification: the last two bytes, low byte first, are the checksum of the rest; false below two bytes (R80). -/
def crcVerify (poly : Half) (f : List Byte) : Bool :=
  decide (2 ≤ f.length)
    && (crc16 poly (f.take (f.length - 2)) == join16 (f.getD (f.length - 2) 0#8) (f.getD (f.length - 1) 0#8))

/-- The lookup table of the table-driven form, a constant of POLY_R (R81). -/
def crcTable (poly : Half) (i : Byte) : Half := crcBits poly 8 (i.setWidth 16)

/-- The byte step by table (R81). -/
def crcByteByTable (poly c : Half) (b : Byte) : Half := (c >>> 8) ^^^ crcTable poly (lo8 c ^^^ b)

end Sys2Proof.Machine
end

