-- ==== Sys2Proof/Machine/CrcCmds.lean ====
section
/-! DEFINITION. The meanings of CRC.INIT, CRC.UPDATE, CRC.COMPUTE and CRC.VERIFY (`40_crc.md` R82 to R85). -/

namespace Sys2Proof.Machine

/-- `CRC.INIT` (R82). -/
def execCrcInit (s : State) : Host.Outcome State Fault Refusal :=
  { s with crc := 0xFFFF#16 }.succeed 0x4#4 0x0000FFFF#32

/-- `CRC.UPDATE b` (R83). -/
def execCrcUpdate (b : Byte) (s : State) : Host.Outcome State Fault Refusal :=
  { s with crc := crcByte s.cfg.polyR s.crc b }.succeed 0x5#4 ((crcByte s.cfg.polyR s.crc b).setWidth 32)

/-- `CRC.COMPUTE` (R85). -/
def execCrcCompute (s : State) : Host.Outcome State Fault Refusal :=
  { s with crc := crc16 s.cfg.polyR s.content }.succeed 0x6#4 ((crc16 s.cfg.polyR s.content).setWidth 32)

/-- `CRC.VERIFY` (R84). A mismatch is a result, not an error. -/
def execCrcVerify (s : State) : Host.Outcome State Fault Refusal :=
  s.succeed 0x7#4 (if crcVerify s.cfg.polyR s.content then 1#32 else 0#32)

end Sys2Proof.Machine
end

