-- ==== Sys2Proof/Machine/Frame.lean ====
section
/-! DEFINITION. The pure functions of the Frame Codec (`42_frame_codec.md` R101, R102, R105). No delimiter, length
field or escape exists (`30_encoding.md` R61). -/

namespace Sys2Proof.Machine

/-- A Response: address, status byte, raw payload (R105). -/
structure FrameResponse where
  address    : Byte
  status     : Byte
  rawPayload : List Byte
  deriving DecidableEq, Repr

/-- The positions of a frame: its byte 0, its byte 1, and what stands before the checksum (R102). -/
def frameSplit (f : List Byte) : Byte × Byte × List Byte :=
  (f.getD 0 0#8, f.getD 1 0#8, (f.drop 2).take (f.length - 4))

/-- A payload with its checksum appended, low byte first (R86). -/
def appendChecksum (poly : Half) (payload : List Byte) : List Byte := payload ++ split16 (crc16 poly payload)

/-- `frame_encode(a, c, p)` (R101). -/
def frameEncode (cfg : Config) (a c : Byte) (p : List Byte) : Except Err (List Byte) :=
  match cfg.schema c with
  | none => .error .constructionError
  | some s =>
      if p.length ≠ s.reqPlen then .error .constructionError
      else if a = 0#8 ∧ s.valueRead = true then .error .constructionError
      else .ok (appendChecksum cfg.polyR (a :: c :: p))

/-- `frame_decode(f, c)`, the checks in the order of R105. -/
def frameDecode (cfg : Config) (f : List Byte) (c : Byte) : Except Err FrameResponse :=
  if f.length < 4 then .error .truncated
  else if crcVerify cfg.polyR f = false then .error .checksumMismatch
  else match cfg.nakCode (f.getD 1 0#8) with
    | some k => .error (.nak k)
    | none => match cfg.schema c with
      | none => .error .unknownCommand
      | some s =>
          if f.length - 4 ≠ s.respDlen then .error .badLength
          else .ok ⟨(frameSplit f).1, (frameSplit f).2.1, (frameSplit f).2.2⟩

end Sys2Proof.Machine
end

