-- ==== Sys2Proof/Machine/FrameCmds.lean ====
section
/-! DEFINITION. The meanings of FRM.ENCODE and FRM.DECODE (`42_frame_codec.md` R104, R106). -/

namespace Sys2Proof.Machine

/-- The end of FRM.ENCODE once the request is good: the checksum of the content goes behind it (R104). -/
def State.appendFrameChecksum (s : State) : Host.Outcome State Fault Refusal :=
  match s.memWrite s.len (split16 (crc16 s.cfg.polyR s.content)) with
  | none => .fault .bufferWrite
  | some t => { t with len := s.len + 2 }.succeed 0x8#4 (BitVec.ofNat 32 (s.len + 2))

/-- `FRM.ENCODE` (R104). -/
def execFrmEncode (s : State) : Host.Outcome State Fault Refusal :=
  match s.content with
  | a :: c :: p =>
      match frameEncode s.cfg a c p with
      | .error e => s.clearResponse.raise 0x8#4 e
      | .ok _ => s.clearResponse.appendFrameChecksum
  | _ => s.clearResponse.raise 0x8#4 .constructionError

/-- What NAKC holds after a well-formed FRM.DECODE: the device's code on Nak, else 0 (R21). -/
def nakcAfter : Except Err FrameResponse → Byte
  | .error (.nak k) => k
  | _ => 0#8

/-- `FRM.DECODE c` (R106). -/
def execFrmDecode (c : Byte) (s : State) : Host.Outcome State Fault Refusal :=
  match frameDecode s.cfg s.content c with
  | .error e => { s.clearResponse with nakc := nakcAfter (.error e) }.raise 0x9#4 e
  | .ok r =>
      { s with st := { s.st with rValid := true }, resp := ⟨r.address, r.status, s.len - 4⟩, nakc := 0#8 }.succeed
        0x9#4 (BitVec.ofNat 32 (s.len - 4))

end Sys2Proof.Machine
end

