-- ==== Sys2Proof/Machine/Operands.lean ====
section
/-! DEFINITION. The operand of REG.READ: the selector space of `10_state.md` R24, and the value each selector reads,
the views of R23 among them. The other operands are bytes used as they stand (`30_encoding.md` R56). -/

namespace Sys2Proof.Machine

/-- The registers and views a selector names (R24). -/
inductive Selector where
  | st
  | crc
  | len
  | rAddr
  | rStat
  | pLen
  | nakc
  | vKind
  | vCnt
  | vRaw (i : Fin 16)
  | vDiv (i : Fin 16)
  | vInt (i : Fin 16)
  | vFrac (i : Fin 16)
  | vQty (i : Fin 16)
  deriving DecidableEq, Repr

/-- A nibble as the index of a value slot. -/
def slotIndex (n : Nibble) : Fin 16 := ⟨n.toNat, n.isLt⟩

/-- The selectors `0x00` to `0x0F` (R24). -/
def lowSelector (n : Nibble) : Option Selector :=
  match n.toNat with
  | 0 => some .st
  | 1 => some .crc
  | 2 => some .len
  | 3 => some .rAddr
  | 4 => some .rStat
  | 5 => some .pLen
  | 6 => some .nakc
  | 7 => some .vKind
  | 8 => some .vCnt
  | _ => none

/-- The selector a byte names; none where it is reserved (R24). -/
def decodeSelector (r : Byte) : Option Selector :=
  match (hiNib r).toNat with
  | 0 => lowSelector (loNib r)
  | 1 => some (.vRaw (slotIndex (loNib r)))
  | 2 => some (.vDiv (slotIndex (loNib r)))
  | 3 => some (.vInt (slotIndex (loNib r)))
  | 4 => some (.vFrac (slotIndex (loNib r)))
  | 5 => some (.vQty (slotIndex (loNib r)))
  | _ => none

/-- `V_INT`: the quotient, 0 when the divisor is 0 (R23). -/
def viewInt (raw div : Data) : Data := if div = 0#32 then 0#32 else BitVec.ofNat 32 (raw.toNat / div.toNat)

/-- `V_FRAC`: the remainder, 0 when the divisor is 0 (R23). -/
def viewFrac (raw div : Data) : Data := if div = 0#32 then 0#32 else BitVec.ofNat 32 (raw.toNat % div.toNat)

/-- The value a selector reads, zero-extended to 32 bits (R24). -/
def State.readSelector (s : State) : Selector → Data
  | .st      => s.st.word
  | .crc     => s.crc.setWidth 32
  | .len     => BitVec.ofNat 32 s.len
  | .rAddr   => s.resp.addr.setWidth 32
  | .rStat   => s.resp.stat.setWidth 32
  | .pLen    => BitVec.ofNat 32 s.resp.plen
  | .nakc    => s.nakc.setWidth 32
  | .vKind   => s.val.kind.code.setWidth 32
  | .vCnt    => s.val.cnt.setWidth 32
  | .vRaw i  => s.val.raw[i]
  | .vDiv i  => s.val.div[i]
  | .vInt i  => viewInt s.val.raw[i] s.val.div[i]
  | .vFrac i => viewFrac s.val.raw[i] s.val.div[i]
  | .vQty i  => s.val.qty[i].setWidth 32

end Sys2Proof.Machine
end

