-- ==== Sys2Proof/Machine/SystemCmds.lean ====
section
/-! DEFINITION. The meanings of REG.READ and RST (`41_buffer_system.md` R97, R95), of an illegal command word (R96,
`30_encoding.md` R64), and the hardware reset input (`70_reset_and_hazards.md` R186). -/

namespace Sys2Proof.Machine

/-- `REG.READ r` (R97). Its opcode is not recorded (R19). -/
def execRegRead (r : Byte) (s : State) : Host.Outcome State Fault Refusal :=
  match decodeSelector r with
  | none => s.raise 0xB#4 .illegalOp
  | some x => s.succeed 0xB#4 (s.readSelector x)

/-- `RST` (R95). -/
def execRst (s : State) : Host.Outcome State Fault Refusal := s.resetBlock.succeed 0xF#4 0#32

/-- The illegal command a malformed word is: `IllegalOp` under the word's own opcode field, nothing else changed
(R64, R96). -/
def execIllegal (w : Half) (s : State) : Host.Outcome State Fault Refusal := s.raise (opField w) .illegalOp

/-- The hardware reset input: every piece of the block's state at its reset value, no response word (R29, R186). -/
def hardwareReset (s : State) : Host.Outcome State Fault Refusal := .next s.resetBlock

end Sys2Proof.Machine
end

