-- ==== Sys2Proof/Machine/ValueCmds.lean ====
section
/-! DEFINITION. The meaning of VAL.DECODE (`43_value_decoder.md` R118). -/

namespace Sys2Proof.Machine

/-- The end of VAL.DECODE once a Measurement is decoded (R118). -/
def State.storeValues (s : State) (m : Measurement) : Host.Outcome State Fault Refusal :=
  { s with st := { s.st with vValid := true }, val := m.regs }.succeed 0xA#4 (m.regs.cnt.setWidth 32)

/-- `VAL.DECODE c` (R118). -/
def execValDecode (c : Byte) (s : State) : Host.Outcome State Fault Refusal :=
  if s.st.rValid = false then s.clearValues.raise 0xA#4 .noFrame
  else match s.memRead 2 s.resp.plen with
    | none => .fault .bufferRead
    | some q =>
        match valueDecode s.cfg c q with
        | .error e => s.clearValues.raise 0xA#4 e
        | .ok m => s.storeValues m

end Sys2Proof.Machine
end

