-- ==== Sys2Proof/Machine/Dispatch.lean ====
section
/-! DEFINITION. The dispatch: each command's meaning (`30_encoding.md` R57). -/

namespace Sys2Proof.Machine

def exec (i : Instr) (s : State) : Host.Outcome State Fault Refusal :=
  match i with
  | .bufClr => Sys2Proof.Machine.execBufClr s
  | .bufPush b => Sys2Proof.Machine.execBufPush b s
  | .bufRead a => Sys2Proof.Machine.execBufRead a s
  | .crcInit => Sys2Proof.Machine.execCrcInit s
  | .crcUpdate b => Sys2Proof.Machine.execCrcUpdate b s
  | .crcCompute => Sys2Proof.Machine.execCrcCompute s
  | .crcVerify => Sys2Proof.Machine.execCrcVerify s
  | .frmEncode => Sys2Proof.Machine.execFrmEncode s
  | .frmDecode c => Sys2Proof.Machine.execFrmDecode c s
  | .valDecode c => Sys2Proof.Machine.execValDecode c s
  | .regRead r => Sys2Proof.Machine.execRegRead r s
  | .rst => Sys2Proof.Machine.execRst s

end Sys2Proof.Machine
end

