-- ==== Sys2Proof/Machine/Step.lean ====
section
/-! DEFINITION. One step: the block executes the command word presented at its port, atomically (`20_memory.md` R47);
with nothing presented the host makes a move (log 11). There is no program counter and no fetch (`10_state.md` R15):
a program is what the host presents. -/

namespace Sys2Proof.Machine

/-- A command word executes: a well-formed one as its command, a malformed one as the illegal command (R59, R64). -/
def runWord (w : Half) (s : State) : Host.Outcome State Fault Refusal :=
  match decode w with
  | .ok i => exec i s
  | .error _ => execIllegal w s

/-- What is presented happens. -/
def runEvent (e : PortEvent) (s : State) : Host.Outcome State Fault Refusal :=
  match e with
  | .command w => runWord w s
  | .hardwareReset => hardwareReset s
  | .hostRestart => hostRestart s

/-- One step. An instance whose CFG breaks R33 has no behaviour (R30, R189). -/
def step (s : State) : Host.Outcome State Fault Refusal :=
  if s.cfg.valid then
    match s.takeEvent with
    | some (e, t) => runEvent e t
    | none => agentTurn s
  else .refused .invalidConfig

/-- `s` with the command word of a table row presented next. -/
def State.withFetchWord (s : State) (nbits w : Nat) : State :=
  { s with issue := .command (tableWord nbits w) :: s.issue }

end Sys2Proof.Machine
end

