-- ==== Sys2Proof/Safety.lean ====
section
/-! DEFINITION. What holds of a state in every run, in the terms the statements use: the block's invariant
(`10_state.md` R16, R18, R20, R22, R33; decision D15: a valid response means that BUF still holds the verified bytes)
and the host's (`44_host_session_exchange.md` R158, R164, R166, R167). -/

namespace Sys2Proof.Machine

/-- BUF holds a verified, non-NAK response of the length some command code expects, and the response registers
describe it (R18 bit 5, R20). -/
structure State.HoldsVerified (s : State) : Prop where
  verified  : crcVerify s.cfg.polyR s.content = true
  length    : 4 ≤ s.len
  plen      : s.resp.plen = s.len - 4
  addr      : s.resp.addr = s.content.getD 0 0#8
  stat      : s.resp.stat = s.content.getD 1 0#8
  notNak    : s.cfg.nakCode s.resp.stat = none
  expected  : ∃ c x, s.cfg.schema c = some x ∧ x.respDlen = s.resp.plen

/-- The value registers hold a Measurement: 1 to 16 slots, divisors not 0, everything beyond the last slot 0 (R22,
R32). -/
structure ValRegs.Measured (v : ValRegs) : Prop where
  kind   : v.kind ≠ .none
  some   : 1 ≤ v.cnt.toNat
  bound  : v.cnt.toNat ≤ 16
  scaled : ∀ i : Fin 16, i.val < v.cnt.toNat → v.div[i] ≠ 0#32
  unused : ∀ i : Fin 16, v.cnt.toNat ≤ i.val → v.raw[i] = 0#32 ∧ v.div[i] = 0#32 ∧ v.qty[i] = 0#8

/-- The block's invariant. -/
structure State.Inv (s : State) : Prop where
  config       : s.cfg.valid = true
  memCanonical : s.mem.wf
  memInRange   : ∀ c ∈ s.mem, c.1 < s.cfg.frameMax
  lenInRange   : s.len ≤ s.cfg.frameMax
  errNamed     : s.st.err.toNat ≤ 10
  okIffNoErr   : s.st = .zero ∨ (s.st.ok = true ↔ s.st.err = 0#4)
  respWithheld : s.st.rValid = false → s.resp = .zero
  respHeld     : s.st.rValid = true → s.HoldsVerified
  valWithheld  : s.st.vValid = false → s.val = .zero
  valHeld      : s.st.vValid = true → s.val.Measured

/-- The phases before the first attempt of a pass. -/
def Phase.preparing : Phase → Bool
  | .encoding | .dumpLength | .dumpBytes _ => true
  | .idle | .sending | .receiving | .draining | .decoding | .valuing | .readKind | .readSlots _ _ => false

/-- The phases after the write of an attempt and before the next. -/
def Phase.attempted : Phase → Bool
  | .receiving | .decoding | .valuing | .readKind | .readSlots _ _ => true
  | .idle | .encoding | .dumpLength | .dumpBytes _ | .sending | .draining => false

/-- The phases in which a call of the caller is under way. -/
def Phase.underWay : Phase → Bool
  | .encoding | .dumpLength | .dumpBytes _ | .sending | .receiving | .decoding | .valuing | .readKind
  | .readSlots _ _ => true
  | .idle | .draining => false

/-- The phases from VAL.DECODE on, in which the values are fetched. -/
def Phase.measuring : Phase → Bool
  | .valuing | .readKind | .readSlots _ _ => true
  | .idle | .encoding | .dumpLength | .dumpBytes _ | .sending | .receiving | .draining | .decoding => false

/-- What the host finds when it waits for the answer to RESPONSE (R166): the FRM.DECODE of its command is the last
thing at the port, or it has been executed, its response word is the newest and ST describes it, with R_VALID as its
OK (R18, R20, R106). -/
def State.AwaitsDecode (s : State) : Prop :=
  (∃ es, s.issue = es ++ [.command (encode (.frmDecode s.agent.cur.command))]) ∨
    (s.issue = [] ∧ ∃ r rs, s.rsps = r :: rs ∧ s.st.lastOp = 0x9#4 ∧ s.st.ok = r.ok ∧ s.st.err = r.err ∧
      s.st.rValid = r.ok)

/-- The host's invariant. -/
structure State.HostInv (s : State) : Prop where
  /-- No pass makes more attempts than RETRY_BUDGET (R167). -/
  budget    : s.agent.cur.attempts ≤ s.cfg.retryBudget
  fresh     : s.agent.phase.preparing = true → s.agent.cur.attempts = 0
  left      : s.agent.phase = .sending → s.agent.cur.attempts < s.cfg.retryBudget
  made      : s.agent.phase.attempted = true → 1 ≤ s.agent.cur.attempts
  /-- Between calls the session is Closed or Open, never Opening (R159, R162). -/
  settled   : s.agent.phase.underWay = false → s.agent.session.phase ≠ .opening ∧ s.agent.task = .exchange
  /-- An `execute` under way has an open session (R164). -/
  exchanging : s.agent.phase.underWay = true → s.agent.task = .exchange → s.agent.session.phase = .opened
  /-- A handshake under way has session state Opening (R159), and a reopening happens once in an `execute` (R172). -/
  opening   : s.agent.task ≠ .exchange → s.agent.session.phase = .opening
  /-- Values are decoded for an `execute` only; a handshake has none (R162). -/
  measuring : s.agent.phase.measuring = true → s.agent.task = .exchange
  /-- A response word the engine takes for FRM.DECODE's is FRM.DECODE's. -/
  awaits    : s.agent.phase = .decoding → s.AwaitsDecode
  once      : ∀ outer, s.agent.task = .reopening outer → outer.reopened = false

/-- What R32 asks of a field descriptor. -/
structure FieldLegal (d : FieldDesc) : Prop where
  width    : 1 ≤ d.width ∧ d.width ≤ 4
  permLen  : d.perm.length = d.width
  permIdx  : ∀ j ∈ d.perm, j < d.width
  distinct : d.perm.Nodup
  div      : 1 ≤ d.div ∧ d.div < 2 ^ 32

/-- What R32 and R33 ask of a layout whose schema expects `n` data bytes. -/
def LayoutLegal (n : Nat) : Layout → Prop
  | .energy t d => 1 ≤ t ∧ t ≤ 16 ∧ FieldLegal d ∧ t * d.width = n
  | .instant ds => 1 ≤ ds.length ∧ ds.length ≤ 16 ∧ (∀ d ∈ ds, FieldLegal d) ∧ (ds.map (·.width)).sum = n
  | .datetime   => n = 6

/-- `g` is `f` with exactly one bit turned. -/
def DiffersInOneBit (f g : List Byte) : Prop :=
  ∃ k, ∃ b, k < f.length ∧ b < 8 ∧ g = f.set k (f.getD k 0#8 ^^^ BitVec.twoPow 8 b)

/-- Commands as the host presents them. -/
def presented (is : List Instr) : List PortEvent := is.map fun i => .command (encode i)

/-- The fields of a command word (R56). -/
def fieldsOf (w : Half) : RawCommand := ⟨w.extractLsb' 12 4, w.extractLsb' 8 4, w.extractLsb' 0 8⟩

/-- `n` steps. -/
def run : Nat → State → Host.Outcome State Fault Refusal
  | 0, s => .next s
  | n + 1, s =>
      match step s with
      | .next t => run n t
      | .fault f => .fault f
      | .refused r => .refused r

end Sys2Proof.Machine
end

