-- ==== Sys2Proof/Certificates/Slice0/Obligations.lean ====
section
/-! DEFINITION. The statements for the provers, in the order of OBLIGATIONS.json. The response words and the port
are the model's carriers of the spec's response word and command interface (log 5, log 6): `rsps` holds the responses
newest first. A statement over `exec` says what the command does with its word already taken from the port; that a
step does the same is `StepRunsPresentedCommand`. -/

open Sys2Proof Sys2Proof.Machine

/-! ## Encoding, decoding, the step -/

/-- R57: the word of each command, and every other word is refused by the decoder. -/
def Obligations.OpcodeMapWords : Prop :=
  encode .bufClr = 0x1000#16 ∧ (∀ b : Byte, encode (.bufPush b) = 0x20#8 ++ b)
    ∧ (∀ i : Byte, encode (.bufRead i) = 0x30#8 ++ i) ∧ encode .crcInit = 0x4000#16
    ∧ (∀ b : Byte, encode (.crcUpdate b) = 0x50#8 ++ b) ∧ encode .crcCompute = 0x6000#16
    ∧ encode .crcVerify = 0x7000#16 ∧ encode .frmEncode = 0x8000#16
    ∧ (∀ c : Byte, encode (.frmDecode c) = 0x90#8 ++ c) ∧ (∀ c : Byte, encode (.valDecode c) = 0xA0#8 ++ c)
    ∧ (∀ r : Byte, encode (.regRead r) = 0xB0#8 ++ r) ∧ encode .rst = 0xF000#16
    ∧ (∀ w : Half, (∀ i, encode i ≠ w) → ∃ e, decode w = .error e)

/-- Decode and encode agree for every well-formed command. -/
def Obligations.DecodeEncodeRoundTrip : Prop := ∀ i : Instr, i.wf = true → decode (encode i) = .ok i

/-- A word of each family, written out bit by bit from R56 and R57, decodes to its command. -/
def Obligations.WrittenOutWordsDecode : Prop :=
  decode 0b0001000000000000#16 = .ok .bufClr ∧ decode 0b0010000010101010#16 = .ok (.bufPush 0xAA#8)
    ∧ decode 0b0101000001010000#16 = .ok (.crcUpdate 0x50#8) ∧ decode 0b1001000000000101#16 = .ok (.frmDecode 0x05#8)
    ∧ decode 0b1010000000001000#16 = .ok (.valDecode 0x08#8) ∧ decode 0b1011000000110001#16 = .ok (.regRead 0x31#8)
    ∧ decode 0b1111000000000000#16 = .ok .rst

/-- R59, R64, R96: a malformed word executes as the illegal command under its own opcode field; every other word
decodes to the command with its operand. -/
def Obligations.MalformedWordIsIllegalCommand : Prop :=
  ∀ w : Half,
    ((fieldsOf w).wf = false →
      (∃ e, decode w = .error e) ∧
      ∀ (s : State) (es : List PortEvent), s.cfg.valid = true → s.issue = .command w :: es →
        step s = .next { s with
          issue := es
          st := if (fieldsOf w).op = 0x3#4 ∨ (fieldsOf w).op = 0xB#4 then s.st
                else { s.st with ok := false, err := 8#4, lastOp := (fieldsOf w).op }
          rsps := ⟨false, 8#4, 0#32⟩ :: s.rsps }) ∧
    ((fieldsOf w).wf = true → ∃ i, decode w = .ok i ∧ i.raw = fieldsOf w)

/-- A step runs the decoded command: the word leaves the port, then the command's meaning. -/
def Obligations.StepRunsPresentedCommand : Prop :=
  ∀ (s : State) (w : Half) (es : List PortEvent) (i : Instr),
    s.cfg.valid = true → s.issue = .command w :: es → decode w = .ok i → step s = exec i { s with issue := es }

/-- R30: an instance whose CFG breaks R33 has no behaviour, and no step changes CFG. -/
def Obligations.ConfigurationIsFixedAndLegal : Prop :=
  (∀ s : State, s.cfg.valid = false → step s = .refused .invalidConfig) ∧
    (∀ s t : State, step s = .next t → t.cfg = s.cfg)

/-- R33 (with R32): what a legal CFG is. -/
def Obligations.ConfigurationConstraints : Prop :=
  ∀ cfg : Config, cfg.valid = true ↔
    cfg.polyR ≠ 0#16 ∧ 4 ≤ cfg.frameMax ∧ cfg.frameMax ≤ 256 ∧
      ∀ c x, cfg.schema c = some x →
        x.reqPlen + 4 ≤ cfg.frameMax ∧ x.respDlen + 4 ≤ cfg.frameMax ∧
          ∀ l, x.layout = some l → LayoutLegal x.respDlen l

/-! ## Reset -/

/-- R29: the state after power-on, for every configuration; `State.reset` is that state of the model's default
configuration, the spec's EXCFG (a choice of the model, log 2). -/
def Obligations.ResetValues : Prop :=
  State.reset = State.resetWith excfg ∧
    ∀ cfg : Config,
      let s := State.resetWith cfg
      s.cfg = cfg ∧ s.len = 0 ∧ (∀ a, s.mem.read a = 0#8) ∧ s.crc = 0xFFFF#16 ∧ s.st.word = 0#32
        ∧ s.resp = ⟨0#8, 0#8, 0⟩ ∧ s.nakc = 0#8 ∧ s.val.kind = .none ∧ s.val.cnt = 0#5
        ∧ (∀ i : Fin 16, s.val.raw[i] = 0#32 ∧ s.val.div[i] = 0#32 ∧ s.val.qty[i] = 0#8)
        ∧ s.agent.session.phase = .closed ∧ s.agent.session.isOpen = false

/-- R95, R186, R188: `RST` and the hardware reset input leave the same reset state but for ST, and touch neither CFG nor
the host. That both leave the host's Session alone is R95 and R188 against R29's row for the Session; following those
two is the model's reading (log 16). -/
def Obligations.TwoResetsDifferInStatusAlone : Prop :=
  decode 0xF000#16 = .ok .rst ∧
    ∀ s : State,
      exec .rst s = .next { s with
        mem := [], len := 0, crc := 0xFFFF#16, st := ⟨0#4, true, false, false, 0xF#4⟩, resp := ⟨0#8, 0#8, 0⟩,
        nakc := 0#8, val := .zero, rsps := ⟨true, 0#4, 0#32⟩ :: s.rsps } ∧
      (⟨0#4, true, false, false, 0xF#4⟩ : Status).word = 0x00000F10#32 ∧
      ∀ es, s.cfg.valid = true → s.issue = .hardwareReset :: es →
        step s = .next { s with
          issue := es, mem := [], len := 0, crc := 0xFFFF#16, st := ⟨0#4, false, false, false, 0#4⟩,
          resp := ⟨0#8, 0#8, 0⟩, nakc := 0#8, val := .zero }

/-! ## Buffer and registers -/

/-- R92. What the unobservable bytes become is left out here (`BufferBytesFrame` has the model's choice). -/
def Obligations.BufClrEmptiesTheBuffer : Prop :=
  decode 0x1000#16 = .ok .bufClr ∧
    ∀ s : State, ∃ t, exec .bufClr s = .next t ∧ t.content = [] ∧
      { t with mem := s.mem } = { s with
        len := 0, st := { s.st with rValid := false, ok := true, err := 0#4, lastOp := 0x1#4 },
        resp := ⟨0#8, 0#8, 0⟩, rsps := ⟨true, 0#4, 0#32⟩ :: s.rsps }

/-- R93. -/
def Obligations.BufPushAppendsOneByte : Prop :=
  (∀ b : Byte, decode (0x20#8 ++ b) = .ok (.bufPush b)) ∧
    ∀ (b : Byte) (s : State), s.mem.wf → s.len ≤ s.cfg.frameMax →
      (s.len = s.cfg.frameMax → exec (.bufPush b) s = .next { s with
        st := { s.st with rValid := false, ok := false, err := 9#4, lastOp := 0x2#4 },
        resp := ⟨0#8, 0#8, 0⟩, rsps := ⟨false, 9#4, 0#32⟩ :: s.rsps }) ∧
      (s.len < s.cfg.frameMax → ∃ t, exec (.bufPush b) s = .next t ∧ t.content = s.content ++ [b] ∧
        (∀ a, a ≠ s.len → t.mem.read a = s.mem.read a) ∧
        { t with mem := s.mem } = { s with
          len := s.len + 1, st := { s.st with rValid := false, ok := true, err := 0#4, lastOp := 0x2#4 },
          resp := ⟨0#8, 0#8, 0⟩, rsps := ⟨true, 0#4, BitVec.ofNat 32 (s.len + 1)⟩ :: s.rsps })

/-- R94: the byte, or IllegalOp past the content or for a malformed word; no state changes in either case. -/
def Obligations.BufReadChangesNothing : Prop :=
  (∀ i : Byte, decode (0x30#8 ++ i) = .ok (.bufRead i)) ∧
    (∀ (i : Byte) (s : State), exec (.bufRead i) s = .next { s with
      rsps := (if s.len ≤ i.toNat then ⟨false, 8#4, 0#32⟩
               else ⟨true, 0#4, (s.mem.read i.toNat).setWidth 32⟩) :: s.rsps }) ∧
    (∀ (w : Half) (s : State) (es : List PortEvent), s.cfg.valid = true → s.issue = .command w :: es →
      (fieldsOf w).op = 0x3#4 → (fieldsOf w).rsv ≠ 0#4 →
      step s = .next { s with issue := es, rsps := ⟨false, 8#4, 0#32⟩ :: s.rsps })

/-- R97, R24, R23: what each selector reads, the reserved selectors and malformed words; no state changes. The numbers
V_KIND reads as are R22's. -/
def Obligations.RegReadSelectors : Prop :=
  (∀ r : Byte, decode (0xB0#8 ++ r) = .ok (.regRead r)) ∧
    (∀ s : State,
      let reads := fun (r : Byte) (v : Data) =>
        exec (.regRead r) s = .next { s with rsps := ⟨true, 0#4, v⟩ :: s.rsps }
      reads 0x00#8 s.st.word ∧ reads 0x01#8 (s.crc.setWidth 32) ∧ reads 0x02#8 (BitVec.ofNat 32 s.len)
        ∧ reads 0x03#8 (s.resp.addr.setWidth 32) ∧ reads 0x04#8 (s.resp.stat.setWidth 32)
        ∧ reads 0x05#8 (BitVec.ofNat 32 s.resp.plen) ∧ reads 0x06#8 (s.nakc.setWidth 32)
        ∧ (s.val.kind = .none → reads 0x07#8 0#32) ∧ (s.val.kind = .energy → reads 0x07#8 1#32)
        ∧ (s.val.kind = .instant → reads 0x07#8 2#32) ∧ (s.val.kind = .datetime → reads 0x07#8 3#32)
        ∧ reads 0x08#8 (s.val.cnt.setWidth 32)
        ∧ (∀ i : Fin 16,
            reads (BitVec.ofNat 8 (0x10 + i)) s.val.raw[i] ∧ reads (BitVec.ofNat 8 (0x20 + i)) s.val.div[i]
            ∧ reads (BitVec.ofNat 8 (0x50 + i)) (s.val.qty[i].setWidth 32)
            ∧ (s.val.div[i] ≠ 0#32 → ∃ q f : Data,
                reads (BitVec.ofNat 8 (0x30 + i)) q ∧ reads (BitVec.ofNat 8 (0x40 + i)) f
                ∧ s.val.raw[i].toNat = q.toNat * s.val.div[i].toNat + f.toNat ∧ f.toNat < s.val.div[i].toNat)
            ∧ (s.val.div[i] = 0#32 →
                reads (BitVec.ofNat 8 (0x30 + i)) 0#32 ∧ reads (BitVec.ofNat 8 (0x40 + i)) 0#32))
        ∧ (∀ r : Byte, (0x09 ≤ r.toNat ∧ r.toNat ≤ 0x0F) ∨ 0x60 ≤ r.toNat →
            exec (.regRead r) s = .next { s with rsps := ⟨false, 8#4, 0#32⟩ :: s.rsps })
        ∧ (s.Inv → s.st.rValid = false → reads 0x03#8 0#32 ∧ reads 0x04#8 0#32 ∧ reads 0x05#8 0#32)) ∧
    (∀ (w : Half) (s : State) (es : List PortEvent), s.cfg.valid = true → s.issue = .command w :: es →
      (fieldsOf w).op = 0xB#4 → (fieldsOf w).rsv ≠ 0#4 →
      step s = .next { s with issue := es, rsps := ⟨false, 8#4, 0#32⟩ :: s.rsps })

/-- The layout of ST as software reads it (R18's table). -/
def Obligations.StatusWordLayout : Prop :=
  ∀ st : Status,
    st.word.extractLsb' 0 4 = st.err ∧ st.word.extractLsb' 4 1 = BitVec.ofBool st.ok
      ∧ st.word.extractLsb' 5 1 = BitVec.ofBool st.rValid ∧ st.word.extractLsb' 6 1 = BitVec.ofBool st.vValid
      ∧ st.word.extractLsb' 7 1 = 0#1 ∧ st.word.extractLsb' 8 4 = st.lastOp ∧ st.word.extractLsb' 12 20 = 0#20

/-- R19, over every word: BUF.READ and REG.READ words change no state; every other word records its opcode and its
outcome; R_VALID and V_VALID change under the commands of R20 and R22 alone. -/
def Obligations.RecordedCommands : Prop :=
  ∀ (s t : State) (w : Half) (es : List PortEvent), s.issue = .command w :: es → step s = .next t →
    (((fieldsOf w).op = 0x3#4 ∨ (fieldsOf w).op = 0xB#4) → ∃ r, t = { s with issue := es, rsps := r :: s.rsps }) ∧
    (¬((fieldsOf w).op = 0x3#4 ∨ (fieldsOf w).op = 0xB#4) →
      t.st.lastOp = (fieldsOf w).op ∧ (t.st.ok = true ↔ t.st.err = 0#4) ∧
        ∃ r, t.rsps = r :: s.rsps ∧ t.st.ok = r.ok ∧ t.st.err = r.err) ∧
    (t.st.rValid ≠ s.st.rValid → ∃ i, decode w = .ok i ∧
      (i = .bufClr ∨ (∃ b, i = .bufPush b) ∨ i = .frmEncode ∨ (∃ c, i = .frmDecode c) ∨ i = .rst)) ∧
    (t.st.vValid ≠ s.st.vValid → ∃ i, decode w = .ok i ∧ ((∃ c, i = .valDecode c) ∨ i = .rst))

/-- The bytes of BUF that a command may change: BUF.PUSH the one at LEN, FRM.ENCODE the two from LEN on, RST all;
every other command none. For BUF.CLR this is the model's choice (log 7: the bytes are unobservable). -/
def Obligations.BufferBytesFrame : Prop :=
  ∀ (i : Instr) (s t : State), s.mem.wf → exec i s = .next t → ∀ a,
    (match i with
      | .bufPush _ => a ≠ s.len → t.mem.read a = s.mem.read a
      | .frmEncode => a ≠ s.len → a ≠ s.len + 1 → t.mem.read a = s.mem.read a
      | .rst => t.mem.read a = 0#8
      | .bufClr | .bufRead _ | .crcInit | .crcUpdate _ | .crcCompute | .crcVerify | .frmDecode _ | .valDecode _
      | .regRead _ => t.mem.read a = s.mem.read a)

/-! ## The Checksum Unit -/

/-- The bit step, bit by bit (R77's formula): bit `i` is bit `i+1` of the register, turned where POLY_R has a 1 and
the bit that leaves is 1. -/
def Obligations.CrcBitStepByBits : Prop :=
  ∀ (poly c : Half) (i : Nat), i < 16 →
    (crcBit poly c).getLsbD i = (c.getLsbD (i + 1) ^^ (c.getLsbD 0 && poly.getLsbD i))

/-- R78: a byte step is eight bit steps of the register with the byte in its low 8 bits. R79: the checksum of nothing is
`0xFFFF`, and one more byte is one more byte step; nothing is done at the end. -/
def Obligations.ChecksumIsAFoldOfByteSteps : Prop :=
  (∀ (poly c : Half) (b : Byte), crcByte poly c b = (crcBit poly)^[8] (c ^^^ b.setWidth 16)) ∧
    ∀ (poly : Half) (s : List Byte) (b : Byte),
      crc16 poly [] = 0xFFFF#16 ∧ crc16 poly (s ++ [b]) = crcByte poly (crc16 poly s) b

/-- R80: verification compares the checksum of all but the last two bytes with those two, low byte first, and is false
below two bytes. -/
def Obligations.VerifyComparesTrailingChecksum : Prop :=
  ∀ (poly : Half),
    (∀ f : List Byte, f.length < 2 → crcVerify poly f = false) ∧
    (∀ (p : List Byte) (lo hi : Byte),
      crcVerify poly (p ++ [lo, hi]) = true ↔ crc16 poly p = lo.setWidth 16 ||| (hi.setWidth 16 <<< 8))

/-- R82. -/
def Obligations.CrcInitSetsAllOnes : Prop :=
  decode 0x4000#16 = .ok .crcInit ∧
    (∀ s : State, exec .crcInit s = .next { s with
      crc := 0xFFFF#16, st := { s.st with ok := true, err := 0#4, lastOp := 0x4#4 },
      rsps := ⟨true, 0#4, 0x0000FFFF#32⟩ :: s.rsps }) ∧
    (∀ (w : Half) (s : State) (es : List PortEvent), s.cfg.valid = true → s.issue = .command w :: es →
      (fieldsOf w).op = 0x4#4 → (fieldsOf w).rsv ≠ 0#4 ∨ (fieldsOf w).arg ≠ 0#8 →
      step s = .next { s with issue := es, st := { s.st with ok := false, err := 8#4, lastOp := 0x4#4 },
                              rsps := ⟨false, 8#4, 0#32⟩ :: s.rsps })

/-- R83. -/
def Obligations.CrcUpdateFoldsOneByte : Prop :=
  (∀ b : Byte, decode (0x50#8 ++ b) = .ok (.crcUpdate b)) ∧
    (∀ (b : Byte) (s : State), exec (.crcUpdate b) s = .next { s with
      crc := crcByte s.cfg.polyR s.crc b, st := { s.st with ok := true, err := 0#4, lastOp := 0x5#4 },
      rsps := ⟨true, 0#4, (crcByte s.cfg.polyR s.crc b).setWidth 32⟩ :: s.rsps }) ∧
    (∀ (w : Half) (s : State) (es : List PortEvent), s.cfg.valid = true → s.issue = .command w :: es →
      (fieldsOf w).op = 0x5#4 → (fieldsOf w).rsv ≠ 0#4 →
      step s = .next { s with issue := es, st := { s.st with ok := false, err := 8#4, lastOp := 0x5#4 },
                              rsps := ⟨false, 8#4, 0#32⟩ :: s.rsps })

/-- R84: the outcome is DATA; a mismatch is no error, and only ST's record changes. -/
def Obligations.CrcVerifyReportsInData : Prop :=
  decode 0x7000#16 = .ok .crcVerify ∧
    (∀ s : State, exec .crcVerify s = .next { s with
      st := { s.st with ok := true, err := 0#4, lastOp := 0x7#4 },
      rsps := ⟨true, 0#4, if crcVerify s.cfg.polyR s.content = true then 1#32 else 0#32⟩ :: s.rsps })

/-- R85. -/
def Obligations.CrcComputeTakesTheWholeContent : Prop :=
  decode 0x6000#16 = .ok .crcCompute ∧
    (∀ s : State, exec .crcCompute s = .next { s with
      crc := crc16 s.cfg.polyR s.content, st := { s.st with ok := true, err := 0#4, lastOp := 0x6#4 },
      rsps := ⟨true, 0#4, (crc16 s.cfg.polyR s.content).setWidth 32⟩ :: s.rsps })

/-- R81, an inference of the spec: the table form computes the byte step. -/
def Obligations.TableFormAgrees : Prop :=
  ∀ (poly c : Half) (b : Byte), crcByteByTable poly c b = crcByte poly c b

/-- R87, an inference of the spec, as far as it holds: a sequence with its checksum appended has checksum 0, so a
verified sequence has; the converse needs the top bit of POLY_R (the constant term of the polynomial), without which
R87's last sentence fails, as the sequence `FF FC` shows (log 17). -/
def Obligations.ZeroResidue : Prop :=
  (∀ (poly : Half) (p : List Byte), crc16 poly (p ++ [lo8 (crc16 poly p), hi8 (crc16 poly p)]) = 0#16) ∧
  (∀ (poly : Half) (f : List Byte), crcVerify poly f = true → crc16 poly f = 0#16) ∧
  (∀ (poly : Half) (f : List Byte), poly.getLsbD 15 = true → 2 ≤ f.length →
    crc16 poly f = 0#16 → crcVerify poly f = true) ∧
  (crc16 0x0001#16 [0xFF#8, 0xFC#8] = 0#16 ∧ crcVerify 0x0001#16 [0xFF#8, 0xFC#8] = false)

/-- R88, an inference of the spec: with POLY_R not 0, every single-bit error of a verified sequence is caught,
wherever it is. -/
def Obligations.SingleBitErrorsAreCaught : Prop :=
  ∀ (poly : Half) (f g : List Byte), poly ≠ 0#16 → crcVerify poly f = true → DiffersInOneBit f g →
    crcVerify poly g = false

/-- R89, an inference of the spec: a streamed computation and LOAD followed by CRC.COMPUTE leave the same checksum,
from any state with an idle port. -/
def Obligations.StreamAndBlockAgree : Prop :=
  ∀ (s : State) (bs : List Byte), s.cfg.valid = true →
    (∃ t, run (bs.length + 1) { s with issue := presented (streamCmds bs) } = .next t ∧ t.crc = crc16 s.cfg.polyR bs) ∧
    (s.mem.wf → bs.length ≤ s.cfg.frameMax →
      ∃ t, run (bs.length + 2) { s with issue := presented (loadCmds bs ++ [.crcCompute]) } = .next t ∧
        t.crc = crc16 s.cfg.polyR bs ∧ t.content = bs)

/-- R17's last sentences, over every step: only these four commands, and the hardware reset, write CRC. -/
def Obligations.WritersOfCrc : Prop :=
  ∀ s t : State, step s = .next t → t.crc ≠ s.crc →
    (∃ es, s.issue = .hardwareReset :: es) ∨
      ∃ w es i, s.issue = .command w :: es ∧ decode w = .ok i ∧
        (i = .crcInit ∨ (∃ b, i = .crcUpdate b) ∨ i = .crcCompute ∨ i = .rst)

/-! ## The Frame Codec -/

/-- R104: a request that its schema accepts gets its checksum, low byte first; every other content raises
ConstructionError and stays. -/
def Obligations.FrmEncodeAppendsTheChecksum : Prop :=
  decode 0x8000#16 = .ok .frmEncode ∧
    ∀ s : State, s.cfg.valid = true → s.mem.wf →
      let a := s.content.getD 0 0#8
      let c := s.content.getD 1 0#8
      let good := 2 ≤ s.len ∧ ∃ x, s.cfg.schema c = some x ∧ s.len - 2 = x.reqPlen ∧ ¬(a = 0#8 ∧ x.valueRead = true)
      let k := crc16 s.cfg.polyR s.content
      (¬good → exec .frmEncode s = .next { s with
        st := { s.st with rValid := false, ok := false, err := 7#4, lastOp := 0x8#4 }, resp := ⟨0#8, 0#8, 0⟩,
        rsps := ⟨false, 7#4, 0#32⟩ :: s.rsps }) ∧
      (good → ∃ t, exec .frmEncode s = .next t ∧ t.content = s.content ++ [lo8 k, hi8 k] ∧
        (∀ i, i ≠ s.len → i ≠ s.len + 1 → t.mem.read i = s.mem.read i) ∧
        { t with mem := s.mem } = { s with
          len := s.len + 2, st := { s.st with rValid := false, ok := true, err := 0#4, lastOp := 0x8#4 },
          resp := ⟨0#8, 0#8, 0⟩, rsps := ⟨true, 0#4, BitVec.ofNat 32 (s.len + 2)⟩ :: s.rsps })

/-- R105: the checks of `frame_decode` in their order. -/
def Obligations.FrameDecodeCheckOrder : Prop :=
  ∀ (cfg : Config) (f : List Byte) (c : Byte),
    (f.length < 4 → frameDecode cfg f c = .error .truncated) ∧
    (4 ≤ f.length →
      (crcVerify cfg.polyR f = false → frameDecode cfg f c = .error .checksumMismatch) ∧
      (crcVerify cfg.polyR f = true →
        (∀ k, cfg.nakCode (f.getD 1 0#8) = some k → frameDecode cfg f c = .error (.nak k)) ∧
        (cfg.nakCode (f.getD 1 0#8) = none →
          (cfg.schema c = none → frameDecode cfg f c = .error .unknownCommand) ∧
          (∀ x, cfg.schema c = some x →
            (f.length - 4 ≠ x.respDlen → frameDecode cfg f c = .error .badLength) ∧
            (f.length - 4 = x.respDlen → frameDecode cfg f c =
              .ok ⟨f.getD 0 0#8, f.getD 1 0#8, (f.drop 2).take (f.length - 4)⟩)))))

/-- R106: what FRM.DECODE does with the result of `frame_decode` on the content. -/
def Obligations.FrmDecodeSetsTheResponse : Prop :=
  (∀ c : Byte, decode (0x90#8 ++ c) = .ok (.frmDecode c)) ∧
    ∀ (c : Byte) (s : State),
      (∀ e, frameDecode s.cfg s.content c = .error e → exec (.frmDecode c) s = .next { s with
        st := { s.st with rValid := false, ok := false, err := e.code, lastOp := 0x9#4 }, resp := ⟨0#8, 0#8, 0⟩,
        nakc := (match e with
          | .nak k => k
          | _ => 0#8),
        rsps := ⟨false, e.code, match e with
          | .nak k => k.setWidth 32
          | _ => 0#32⟩ :: s.rsps }) ∧
      (∀ r, frameDecode s.cfg s.content c = .ok r → exec (.frmDecode c) s = .next { s with
        st := { s.st with rValid := true, ok := true, err := 0#4, lastOp := 0x9#4 },
        resp := ⟨s.content.getD 0 0#8, s.content.getD 1 0#8, s.len - 4⟩, nakc := 0#8,
        rsps := ⟨true, 0#4, BitVec.ofNat 32 (s.len - 4)⟩ :: s.rsps })

/-- R110, an inference of the spec: an encoded request verifies, splits into what it was built from, and decodes as a
response exactly when its status is no NAK and the expected length is its own. -/
def Obligations.FrameRoundTrip : Prop :=
  ∀ (cfg : Config) (a c : Byte) (p f : List Byte), frameEncode cfg a c p = .ok f →
    crcVerify cfg.polyR f = true ∧ f.length = p.length + 4 ∧ frameSplit f = (a, c, p) ∧
      ∀ c', frameDecode cfg f c' = .ok ⟨a, c, p⟩ ↔
        cfg.nakCode c = none ∧ ∃ x, cfg.schema c' = some x ∧ x.respDlen = p.length

/-- R111, an inference of the spec: a single-bit error in a frame that passed the first two checks is a
ChecksumMismatch. -/
def Obligations.FrameSingleBitError : Prop :=
  ∀ (cfg : Config) (f g : List Byte) (c : Byte), cfg.polyR ≠ 0#16 →
    frameDecode cfg f c ≠ .error .truncated → frameDecode cfg f c ≠ .error .checksumMismatch →
    DiffersInOneBit f g → frameDecode cfg g c = .error .checksumMismatch

/-- R107, an inference of the spec: after a failed FRM.DECODE nothing of the frame is exposed as a Response: the
response registers are 0 and VAL.DECODE answers NoFrame. The one datum it does expose is the NAK code, in NAKC and
DATA, and only of a frame whose checksum passed. -/
def Obligations.FailedDecodeExposesNoResponse : Prop :=
  ∀ (c : Byte) (s : State) (e : Err), frameDecode s.cfg s.content c = .error e →
    ∃ t, exec (.frmDecode c) s = .next t ∧ t.st.rValid = false ∧ t.resp = ⟨0#8, 0#8, 0⟩ ∧
      (∃ r, t.rsps = r :: s.rsps ∧ r.ok = false ∧
        (∀ k, e = .nak k → crcVerify s.cfg.polyR s.content = true ∧ t.nakc = k ∧ r.data = k.setWidth 32) ∧
        ((∀ k, e ≠ .nak k) → t.nakc = 0#8 ∧ r.data = 0#32)) ∧
      ∀ c', ∃ u, exec (.valDecode c') t = .next u ∧ u.rsps = ⟨false, 10#4, 0#32⟩ :: t.rsps ∧ u.resp = ⟨0#8, 0#8, 0⟩

/-- R21: what writes NAKC, over every step. -/
def Obligations.WritersOfNakc : Prop :=
  (∀ (c : Byte) (s : State), ∃ t, exec (.frmDecode c) s = .next t ∧
    (∀ k, frameDecode s.cfg s.content c = .error (.nak k) → t.nakc = k) ∧
    ((∀ k, frameDecode s.cfg s.content c ≠ .error (.nak k)) → t.nakc = 0#8)) ∧
  (∀ s : State, ∃ t, exec .rst s = .next t ∧ t.nakc = 0#8) ∧
  (∀ s t : State, step s = .next t → t.nakc ≠ s.nakc →
    (∃ es, s.issue = .hardwareReset :: es) ∨
      ∃ w es i, s.issue = .command w :: es ∧ decode w = .ok i ∧ ((∃ c, i = .frmDecode c) ∨ i = .rst))

/-- The gate of R20, over every command: the five commands drop the response, FRM.DECODE holds one only on success,
and no other command touches it. -/
def Obligations.ResponseGate : Prop :=
  ∀ (i : Instr) (s t : State), exec i s = .next t →
    (match i with
      | .bufClr | .bufPush _ | .frmEncode | .rst => t.st.rValid = false ∧ t.resp = ⟨0#8, 0#8, 0⟩
      | .frmDecode c =>
          (t.st.rValid = true ↔ ∃ r, frameDecode s.cfg s.content c = .ok r) ∧
            (t.st.rValid = false → t.resp = ⟨0#8, 0#8, 0⟩)
      | .bufRead _ | .crcInit | .crcUpdate _ | .crcCompute | .crcVerify | .valDecode _ | .regRead _ =>
          t.st.rValid = s.st.rValid ∧ t.resp = s.resp)

/-! ## The Value Decoder -/

/-- R118: what VAL.DECODE does with the result of `value_decode` on the raw payload. -/
def Obligations.ValDecodeStoresTheMeasurement : Prop :=
  (∀ c : Byte, decode (0xA0#8 ++ c) = .ok (.valDecode c)) ∧
    ∀ (c : Byte) (s : State), s.cfg.valid = true →
      let failing := fun (code : Nibble) => exec (.valDecode c) s = .next { s with
        st := { s.st with vValid := false, ok := false, err := code, lastOp := 0xA#4 }, val := .zero,
        rsps := ⟨false, code, 0#32⟩ :: s.rsps }
      (s.st.rValid = false → failing 10#4) ∧
      (s.st.rValid = true → 2 + s.resp.plen ≤ s.len →
        let q := (s.content.drop 2).take s.resp.plen
        (∀ e, valueDecode s.cfg c q = .error e → failing e.code) ∧
        (∀ m, valueDecode s.cfg c q = .ok m → ∃ t, exec (.valDecode c) s = .next t ∧
          t.val.kind = m.kind ∧ t.val.cnt.toNat = m.slots.length ∧
          (∀ i : Fin 16, t.val.raw[i] = ((m.slots[i.val]?).elim 0#32 (·.raw))
            ∧ t.val.div[i] = ((m.slots[i.val]?).elim 0#32 (·.div))
            ∧ t.val.qty[i] = ((m.slots[i.val]?).elim 0#8 (·.qty))) ∧
          { t with val := s.val } = { s with
            st := { s.st with vValid := true, ok := true, err := 0#4, lastOp := 0xA#4 },
            rsps := ⟨true, 0#4, BitVec.ofNat 32 m.slots.length⟩ :: s.rsps }))

/-- R22, over every step: VAL.DECODE, RST and the hardware reset alone write the value registers and V_VALID. -/
def Obligations.WritersOfTheValueRegisters : Prop :=
  ∀ s t : State, step s = .next t → (t.val ≠ s.val ∨ t.st.vValid ≠ s.st.vValid) →
    (∃ es, s.issue = .hardwareReset :: es) ∨
      ∃ w es i, s.issue = .command w :: es ∧ decode w = .ok i ∧ ((∃ c, i = .valDecode c) ∨ i = .rst)

/-- R121: ENERGY. -/
def Obligations.EnergyTotals : Prop :=
  ∀ (cfg : Config) (c : Byte) (q : List Byte) (n : Nat) (d : FieldDesc), cfg.layoutOf c = some (.energy n d) →
    let x := fun j => (q.drop (j * d.width)).take d.width
    (q.length ≠ n * d.width → valueDecode cfg c q = .error .badLength) ∧
    (q.length = n * d.width →
      ((∃ j, j < n ∧ fieldOk d (x j) = false) → valueDecode cfg c q = .error .badDigit) ∧
      ((∀ j, j < n → fieldOk d (x j) = true) → ∃ m, valueDecode cfg c q = .ok m ∧ m.kind = .energy ∧
        m.slots.length = n ∧ ∀ j, j < n →
          m.slots[j]? = some ⟨BitVec.ofNat 32 (fieldRaw d (x j)), BitVec.ofNat 32 d.div, d.qty⟩))

/-- R122: INSTANT. -/
def Obligations.InstantaneousQuantities : Prop :=
  ∀ (cfg : Config) (c : Byte) (q : List Byte) (ds : List FieldDesc), cfg.layoutOf c = some (.instant ds) →
    let o := fun j => ((ds.take j).map (·.width)).sum
    let x := fun j (d : FieldDesc) => (q.drop (o j)).take d.width
    (q.length ≠ o ds.length → valueDecode cfg c q = .error .badLength) ∧
    (q.length = o ds.length →
      ((∃ (j : Nat) (d : FieldDesc), ds[j]? = some d ∧ fieldOk d (x j d) = false) → valueDecode cfg c q = .error .badDigit) ∧
      ((∀ (j : Nat) (d : FieldDesc), ds[j]? = some d → fieldOk d (x j d) = true) → ∃ m, valueDecode cfg c q = .ok m ∧ m.kind = .instant ∧
        m.slots.length = ds.length ∧ ∀ (j : Nat) (d : FieldDesc), ds[j]? = some d →
          m.slots[j]? = some ⟨BitVec.ofNat 32 (fieldRaw d (x j d)), BitVec.ofNat 32 d.div, d.qty⟩))

/-- R125: DATETIME. -/
def Obligations.DateAndTime : Prop :=
  ∀ (cfg : Config) (c : Byte) (q : List Byte), cfg.layoutOf c = some .datetime →
    (q.length ≠ 6 → valueDecode cfg c q = .error .badLength) ∧
    (q.length = 6 → (∃ b ∈ q, bcdOk b = false) → valueDecode cfg c q = .error .badDigit) ∧
    (∀ b0 b1 b2 b3 b4 b5 : Byte, q = [b0, b1, b2, b3, b4, b5] → (∀ b ∈ q, bcdOk b = true) →
      valueDecode cfg c q = .ok ⟨.datetime,
        [⟨BitVec.ofNat 32 (bcd2 b0), 1#32, 0x10#8⟩, ⟨BitVec.ofNat 32 (bcd2 b1), 1#32, 0x11#8⟩,
         ⟨BitVec.ofNat 32 (bcd2 b2), 1#32, 0x12#8⟩, ⟨BitVec.ofNat 32 (bcd2 b3), 1#32, 0x13#8⟩,
         ⟨BitVec.ofNat 32 (bcd2 b4), 1#32, 0x14#8⟩, ⟨BitVec.ofNat 32 (bcd2 b5), 1#32, 0x15#8⟩]⟩)

/-- R119's first two checks: no layout, then the wrong length; and R126: nothing else than these three errors. -/
def Obligations.ValueDecodeErrors : Prop :=
  ∀ (cfg : Config) (c : Byte) (q : List Byte),
    ((cfg.schema c = none ∨ ∃ x, cfg.schema c = some x ∧ x.layout = none) →
      valueDecode cfg c q = .error .unknownCommand) ∧
    (∀ x l, cfg.schema c = some x → x.layout = some l → q.length ≠ l.byteLen →
      valueDecode cfg c q = .error .badLength) ∧
    (∀ e, valueDecode cfg c q = .error e → e = .unknownCommand ∨ e = .badLength ∨ e = .badDigit)

/-- R117. -/
def Obligations.PackedBcd : Prop :=
  (∀ hi lo : Nibble, (bcdOk (hi ++ lo) = true ↔ hi.toNat ≤ 9 ∧ lo.toNat ≤ 9) ∧
    bcd2 (hi ++ lo) = 10 * hi.toNat + lo.toNat) ∧
  (∀ b : Byte, bcdOk b = true → bcd2 b ≤ 99) ∧ bcd2 0x59#8 = 59

/-- R120: which fields are good, and what a good field's raw is: the digit of significance `k`, in base 256 or 100, is
byte `perm[k]` of the field, and there are W digits, so the raw is below 256^W or 100^W and fits 32 bits. Digits and
bound together leave one number. -/
def Obligations.FieldRawDigits : Prop :=
  ∀ (d : FieldDesc) (x : List Byte), FieldLegal d → x.length = d.width →
    (d.enc = .bin → fieldOk d x = true ∧ fieldRaw d x < 256 ^ d.width ∧
      ∀ k < d.width, ∃ j b, d.perm[k]? = some j ∧ x[j]? = some b ∧ fieldRaw d x / 256 ^ k % 256 = b.toNat) ∧
    (d.enc = .bcd → (fieldOk d x = true ↔ ∀ k < d.width, ∃ b, x[k]? = some b ∧ bcdOk b = true) ∧
      (fieldOk d x = true → fieldRaw d x < 100 ^ d.width ∧
        ∀ k < d.width, ∃ j b, d.perm[k]? = some j ∧ x[j]? = some b ∧ fieldRaw d x / 100 ^ k % 100 = bcd2 b)) ∧
    (fieldOk d x = true → fieldRaw d x < 2 ^ 32)

/-- R127, an inference of the spec: a decoded Measurement has 1 to 16 slots, every divisor is at least 1, and a date
or time number is at most 99. -/
def Obligations.MeasurementBounds : Prop :=
  ∀ (cfg : Config) (c : Byte) (q : List Byte) (m : Measurement), cfg.valid = true → valueDecode cfg c q = .ok m →
    1 ≤ m.slots.length ∧ m.slots.length ≤ 16 ∧
      (∀ x ∈ m.slots, 1 ≤ x.div.toNat ∧ (viewFrac x.raw x.div).toNat < x.div.toNat) ∧
      (m.kind = .datetime → ∀ x ∈ m.slots, x.raw.toNat ≤ 99)

/-! ## Errors -/

/-- The codes of R137's table; 11 to 15 belong to none. -/
def Obligations.ErrorCodes : Prop :=
  Err.truncated.code = 1#4 ∧ Err.checksumMismatch.code = 2#4 ∧ (∀ k, (Err.nak k).code = 3#4)
    ∧ Err.badLength.code = 4#4 ∧ Err.badDigit.code = 5#4 ∧ Err.unknownCommand.code = 6#4
    ∧ Err.constructionError.code = 7#4 ∧ Err.illegalOp.code = 8#4 ∧ Err.overflow.code = 9#4 ∧ Err.noFrame.code = 10#4
    ∧ ∀ e : Err, 1 ≤ e.code.toNat ∧ e.code.toNat ≤ 10

/-- R138, an inference of the spec: which error codes each command can answer with. -/
def Obligations.WhichCommandRaisesWhat : Prop :=
  ∀ (i : Instr) (s t : State), exec i s = .next t → ∃ r, t.rsps = r :: s.rsps ∧
    (match i with
      | .bufClr | .crcInit | .crcUpdate _ | .crcCompute | .crcVerify | .rst => r.err = 0#4
      | .bufPush _ => r.err = 0#4 ∨ r.err = 9#4
      | .bufRead _ | .regRead _ => r.err = 0#4 ∨ r.err = 8#4
      | .frmEncode => r.err = 0#4 ∨ r.err = 7#4
      | .frmDecode _ => r.err = 0#4 ∨ r.err = 1#4 ∨ r.err = 2#4 ∨ r.err = 3#4 ∨ r.err = 6#4 ∨ r.err = 4#4
      | .valDecode _ => r.err = 0#4 ∨ r.err = 10#4 ∨ r.err = 6#4 ∨ r.err = 4#4 ∨ r.err = 5#4)

/-- R58: every command word gets one response word; OK = 1 exactly when ERR = 0, DATA is 0 on an error but for Nak,
where it is the code; and how the word is packed. -/
def Obligations.OneResponsePerCommand : Prop :=
  (∀ (s t : State) (w : Half) (es : List PortEvent), s.issue = .command w :: es → step s = .next t →
    ∃ r, t.rsps = r :: s.rsps ∧ (r.ok = true ↔ r.err = 0#4) ∧ (r.err ≠ 0#4 → r.err ≠ 3#4 → r.data = 0#32) ∧
      (r.err = 3#4 → r.data = t.nakc.setWidth 32)) ∧
  (∀ r : Response, r.packed.extractLsb' 37 3 = 0#3 ∧ r.packed.extractLsb' 36 1 = BitVec.ofBool r.ok
    ∧ r.packed.extractLsb' 32 4 = r.err ∧ r.packed.extractLsb' 0 32 = r.data)

/-- Errors are precise (R141): a failing command leaves BUF, LEN, CRC, CFG, the port and the host as they were, and a
recorded one leaves its code in ST. -/
def Obligations.FailingCommandIsPrecise : Prop :=
  ∀ (i : Instr) (s t : State) (r : Response), exec i s = .next t → t.rsps = r :: s.rsps → r.ok = false →
    t.mem = s.mem ∧ t.len = s.len ∧ t.crc = s.crc ∧ t.cfg = s.cfg ∧ t.issue = s.issue ∧ t.agent = s.agent ∧
      (recorded i.raw.op = true → t.st.ok = false ∧ t.st.err = r.err ∧ t.st.lastOp = i.raw.op)

/-! ## Invariants -/

/-- The invariants hold right after reset, whatever the legal configuration, and EXCFG is legal (a choice of the
model, log 2). -/
def Obligations.ResetMeetsTheInvariants : Prop :=
  (∀ cfg : Config, cfg.valid = true → (State.resetWith cfg).Inv ∧ (State.resetWith cfg).HostInv) ∧
    excfg.valid = true ∧ excfg.hostValid = true ∧ State.reset.Inv ∧ State.reset.HostInv

/-- Every step keeps the block's invariant; with it, a valid response always means verified bytes still in BUF. -/
def Obligations.StepKeepsTheInvariant : Prop := ∀ s t : State, s.Inv → step s = .next t → t.Inv

/-- Every step keeps the host's invariant. -/
def Obligations.StepKeepsTheHostInvariant : Prop := ∀ s t : State, s.HostInv → step s = .next t → t.HostInv

/-- From every state that meets the invariant, with the host's parameters as R6 asks, every step answers a next state:
no word, no data and no answer of the transport ends a run. Without the second premise a move of the host is refused,
which is the model's choice (log 4). -/
def Obligations.EveryStepAnswersNext : Prop :=
  ∀ s : State, s.Inv → s.cfg.hostValid = true → ∃ t, step s = .next t

/-! ## The host -/

/-- R14: a move of the host changes no register and no buffer byte; it only presents commands. R188: a restart of the
host changes nothing of the block either, and leaves the Session Closed whatever the device holds; what of the host's
other data and of the port it keeps is the model's choice (log 14, log 21), and so is that a read in flight goes on
(log 22). -/
def Obligations.HostMovesTouchNoRegister : Prop :=
  (∀ s t : State, s.issue = [] → step s = .next t →
    { t with issue := s.issue, agent := s.agent } = s ∧ ∃ is, t.issue = presented is) ∧
  (∀ (s : State) (es : List PortEvent), s.cfg.valid = true → s.issue = .hostRestart :: es →
    step s = .next { s with
      issue := es.filter fun e => !e.isCommand
      agent := { s.agent with
        session := ⟨.closed, 0#8, 0, []⟩
        phase := if s.agent.phase = .receiving ∨ s.agent.phase = .draining then .draining else .idle
        task := .exchange, cur := ⟨0#8, [], [], 0, 0, false⟩ } })

/-- R164: an `execute` on a session that is not open fails at once with ChannelNotOpen; no command is issued and no
call of the transport is made. -/
def Obligations.ClosedSessionFailsAtOnce : Prop :=
  ∀ (s : State) (c : Byte) (p : List Byte) (cs : List Call), s.cfg.valid = true → s.cfg.hostValid = true →
    s.issue = [] → s.agent.phase = .idle → s.agent.session.isOpen = false → s.agent.calls = .execute c p :: cs →
    ∃ t, step s = .next t ∧ t.agent.results = .failed .channelNotOpen :: s.agent.results ∧ t.agent.calls = cs ∧
      t.agent.phase = .idle ∧ t.issue = [] ∧ t.rsps = s.rsps ∧ t.agent.writes = s.agent.writes ∧
      t.agent.inbox = s.agent.inbox ∧ t.agent.session = s.agent.session ∧ t.agent.now = s.agent.now

/-- R166, R169, R177: against a transport that answers nothing, the attempt loop ends in Timeout after exactly
RETRY_BUDGET writes of the same frame, within RETRY_BUDGET times ATTEMPT_TIMEOUT, with no command issued. That an empty
inbox is silent is the model's choice (log 12), and so is the clock the bound is about (log 15). -/
def Obligations.SilentTransportTimesOut : Prop :=
  ∀ s : State, s.cfg.valid = true → s.cfg.hostValid = true → s.issue = [] → s.agent.phase = .sending →
    s.agent.task = .exchange → s.agent.cur.attempts = 0 → (∀ a ∈ s.agent.inbox, a.bytes = []) →
    ∃ t, run (2 * s.cfg.retryBudget) s = .next t ∧
      t.agent.results = .failed .timeout :: s.agent.results ∧ t.agent.phase = .idle ∧
      t.agent.writes = List.replicate s.cfg.retryBudget s.agent.cur.frame ++ s.agent.writes ∧
      t.agent.now ≤ s.agent.now + s.cfg.retryBudget * s.cfg.attemptTimeout ∧
      t.issue = [] ∧ t.rsps = s.rsps ∧ t.agent.session = s.agent.session

/-- R52, R176, R194: the transport is written to only before a read that must end before anything else is written, and
an answer is taken by that read alone. With nothing at the port the step ends the read; with something there the attempt
stays in flight, and only a restart of the host changes what becomes of its answer (that the restarted host waits the
read out is the model's choice, log 21, log 22). -/
def Obligations.HalfDuplexExchange : Prop :=
  ∀ s t : State, step s = .next t →
    (t.agent.writes ≠ s.agent.writes →
      s.issue = [] ∧ s.agent.phase = .sending ∧ t.agent.phase = .receiving ∧
        t.agent.writes = s.agent.cur.frame :: s.agent.writes) ∧
    (t.agent.inbox ≠ s.agent.inbox → s.issue = [] ∧ s.agent.phase.inFlight = true) ∧
    (s.agent.phase.inFlight = true → t.agent.writes = s.agent.writes ∧
      (s.issue = [] → t.agent.phase.inFlight = false ∧ t.agent.inbox = s.agent.inbox.tail ∧
        (s.agent.phase = .draining → t.issue = [] ∧ t.agent.phase = .idle ∧ t.agent.session = s.agent.session ∧
          t.agent.results = s.agent.results)) ∧
      (s.issue ≠ [] → t.agent.phase.inFlight = true ∧ t.agent.inbox = s.agent.inbox) ∧
      (s.issue ≠ [] → t.agent.phase ≠ s.agent.phase → t.agent.phase = .draining ∧ ∃ es, s.issue = .hostRestart :: es))

/-- R159: the session becomes open only on a verified non-NAK answer to the handshake: the last recorded command is
FRM.DECODE, it succeeded, and BUF holds what it verified; the time is kept. -/
def Obligations.SessionOpensOnlyOnAck : Prop :=
  ∀ s t : State, s.HostInv → step s = .next t → s.agent.session.isOpen = false → t.agent.session.isOpen = true →
    s.issue = [] ∧ s.agent.phase = .decoding ∧ s.agent.task ≠ .exchange ∧ s.agent.session.phase = .opening ∧
      (∃ r rs, s.rsps = r :: rs ∧ r.ok = true) ∧ s.st.lastOp = 0x9#4 ∧ s.st.ok = true ∧ s.st.rValid = true ∧
      (s.Inv → s.HoldsVerified) ∧ t.agent.session.openedAt = s.agent.now

/-- R172: what the engine does on a NAK, and how a reopening ends; R162: how the handshake of an `open_channel` begins
and each way it ends. A handshake issues no VAL.DECODE. Three things here are the model's choice and not these rules':
that `open_channel` may be called in every session state, where R159 names it from Closed (log 14); that an empty inbox
is a read of no byte (log 12); and that the handshake runs and is acknowledged whatever the schema of c_open says of a
value or of response data (log 20). -/
def Obligations.NakHandlingAndHandshake : Prop :=
  (∀ (s : State) (r : Response) (rs : List Response), s.cfg.valid = true → s.cfg.hostValid = true → s.issue = [] →
    s.agent.phase = .decoding → s.rsps = r :: rs →
    (s.agent.task = .exchange → r.ok = false → r.err = 3#4 →
      (r.data.setWidth 8 = s.cfg.nakClosed → s.agent.cur.reopened = false → ∃ t, step s = .next t ∧
        t.agent.task = .reopening s.agent.cur ∧ t.agent.session.phase = .opening ∧ t.agent.phase = .encoding ∧
        t.issue = presented (requestCmds s.agent.session.address s.cfg.cOpen s.agent.session.openParams) ∧
        t.agent.results = s.agent.results) ∧
      (r.data.setWidth 8 = s.cfg.nakClosed → s.agent.cur.reopened = true → ∃ t, step s = .next t ∧
        t.agent.results = .failed (.rejected s.cfg.nakClosed) :: s.agent.results ∧ t.agent.phase = .idle ∧
        t.agent.session.phase = .closed ∧ t.issue = []) ∧
      (r.data.setWidth 8 ≠ s.cfg.nakClosed → ∃ t, step s = .next t ∧
        t.agent.results = .failed (.rejected (r.data.setWidth 8)) :: s.agent.results ∧ t.agent.phase = .idle ∧
        t.agent.session = s.agent.session ∧ t.issue = [])) ∧
    (∀ outer, s.agent.task = .reopening outer → r.ok = true → ∃ t, step s = .next t ∧ t.agent.task = .exchange ∧
      t.agent.phase = .sending ∧ t.agent.cur = { outer with reopened := true, attempts := 0 } ∧
      t.agent.session.phase = .opened ∧ t.agent.session.openedAt = s.agent.now ∧ t.issue = [] ∧
      t.agent.results = s.agent.results) ∧
    (s.agent.task = .handshake → r.ok = true → ∃ t, step s = .next t ∧
      t.agent.results = .opened :: s.agent.results ∧ t.agent.phase = .idle ∧ t.agent.session.phase = .opened ∧
      t.agent.session.openedAt = s.agent.now ∧ t.issue = []) ∧
    (s.agent.task ≠ .exchange → r.ok = false →
      let fails := fun (f : Failure) => ∃ t, step s = .next t ∧ t.agent.results = .failed f :: s.agent.results ∧
        t.agent.phase = .idle ∧ t.agent.session.phase = .closed ∧ t.issue = []
      (r.err = 3#4 → fails .openRejected) ∧
      (r.err = 2#4 → s.agent.cur.attempts < s.cfg.retryBudget → ∃ t, step s = .next t ∧ t.agent.phase = .sending ∧
        t.agent.session = s.agent.session ∧ t.agent.results = s.agent.results) ∧
      (r.err = 2#4 → s.cfg.retryBudget ≤ s.agent.cur.attempts → fails .corruptResponse) ∧
      (r.err = 1#4 ∨ r.err = 4#4 ∨ r.err = 6#4 → fails (.decodeFailed r.err)))) ∧
  (∀ s : State, s.cfg.valid = true → s.cfg.hostValid = true → s.issue = [] → s.agent.phase = .receiving →
    s.agent.task ≠ .exchange → (∀ a, s.agent.inbox.head? = some a → a.bytes = []) →
    (s.agent.cur.attempts < s.cfg.retryBudget → ∃ t, step s = .next t ∧ t.agent.phase = .sending ∧
      t.agent.session = s.agent.session ∧ t.agent.results = s.agent.results) ∧
    (s.cfg.retryBudget ≤ s.agent.cur.attempts → ∃ t, step s = .next t ∧
      t.agent.results = .failed .openTimeout :: s.agent.results ∧ t.agent.phase = .idle ∧
      t.agent.session.phase = .closed ∧ t.issue = [])) ∧
  (∀ (s : State) (r : Response) (rs : List Response), s.cfg.valid = true → s.cfg.hostValid = true → s.issue = [] →
    s.agent.phase = .encoding → s.agent.task ≠ .exchange → s.rsps = r :: rs → r.ok = false →
    ∃ t, step s = .next t ∧ t.agent.results = .failed .constructionError :: s.agent.results ∧ t.agent.phase = .idle ∧
      t.agent.session.phase = .closed ∧ t.agent.writes = s.agent.writes) ∧
  (∀ (s : State) (a : Byte) (p : List Byte) (cs : List Call), s.cfg.valid = true → s.cfg.hostValid = true →
    s.issue = [] → s.agent.phase = .idle → s.agent.calls = .openChannel a p :: cs →
    ∃ t, step s = .next t ∧ t.agent.task = .handshake ∧ t.agent.phase = .encoding ∧ t.agent.cur.attempts = 0 ∧
      t.agent.calls = cs ∧ t.agent.session.phase = .opening ∧ t.agent.session.address = a ∧
      t.agent.session.openParams = p ∧ t.issue = presented (requestCmds a s.cfg.cOpen p))

/-- What a call does in each phase, from its start to what it returns. R164, R165: an `execute` on an open session
issues the REQUEST of the session's address, its command and its parameters.

For every task, since a handshake runs the same loop (R162, R166): a good REQUEST is read out and kept (R165); an attempt
is counted and writes the kept frame (R166); what was read goes to the block, cut to the expected length (R168); a read
of no byte and a bad checksum are tried again while attempts are left (R167, R169, R171).

For an `execute`: REQUEST refused ends it with ConstructionError before any I/O (R165); the last attempt's failure is
Timeout or CorruptResponse (R167); any other frame-level error is DecodeFailed at once (R173). On a verified response
VAL.DECODE is issued; its error is DecodeFailed, and on success the Measurement returned is what the value registers
hold (R166). How a handshake fails is in `NakHandlingAndHandshake`.

The model's choices in it: an empty inbox is a read of no byte (log 12); a late answer's bytes are handed over (log 19);
the length DUMP reads is taken whatever its response's OK says, and NoFrame of VAL.DECODE is DecodeFailed like its other
errors (log 23). -/
def Obligations.CallsPhaseByPhase : Prop :=
  ∀ s : State, s.cfg.valid = true → s.cfg.hostValid = true →
    let ends := fun (f : Failure) => ∃ t, step s = .next t ∧ t.agent.results = .failed f :: s.agent.results ∧
      t.agent.phase = .idle ∧ t.issue = [] ∧ t.agent.writes = s.agent.writes ∧ t.agent.session = s.agent.session
    let goesOn := fun (ph : Phase) (is : List Instr) (cur : Exchange) (inbox : List Answer) => ∃ t, step s = .next t ∧
      t.agent.phase = ph ∧ t.issue = presented is ∧ t.agent.cur = cur ∧ t.agent.inbox = inbox ∧
      t.agent.task = s.agent.task ∧ t.agent.calls = s.agent.calls ∧ t.agent.results = s.agent.results ∧
      t.agent.writes = s.agent.writes ∧ t.agent.session = s.agent.session
    (s.issue = [] →
      (∀ c p cs, s.agent.phase = .idle → s.agent.session.isOpen = true → s.agent.calls = .execute c p :: cs →
        ∃ t, step s = .next t ∧ t.agent.task = .exchange ∧ t.agent.phase = .encoding ∧
          t.agent.cur = ⟨c, p, [], 0, 0, false⟩ ∧
          t.issue = presented (.bufClr :: (s.agent.session.address :: c :: p).map .bufPush ++ [.frmEncode]) ∧
          t.agent.calls = cs ∧ t.agent.results = s.agent.results ∧ t.agent.writes = s.agent.writes ∧
          t.agent.inbox = s.agent.inbox ∧ t.agent.session = s.agent.session) ∧
      (∀ r rs x, s.agent.phase = .encoding → s.rsps = r :: rs → r.ok = true →
        s.cfg.schema s.agent.cur.command = some x →
        goesOn .dumpLength [.regRead 0x02#8] { s.agent.cur with nExp := x.respDlen + 4 } s.agent.inbox) ∧
      (∀ r rs, s.agent.phase = .dumpLength → s.rsps = r :: rs →
        goesOn (.dumpBytes r.data.toNat) ((List.range r.data.toNat).map fun k => .bufRead (BitVec.ofNat 8 k))
          s.agent.cur s.agent.inbox) ∧
      (∀ (frame : List Byte) (rs : List Response), s.agent.phase = .dumpBytes frame.length →
        s.rsps = (frame.reverse.map fun b => ⟨true, 0#4, b.setWidth 32⟩) ++ rs →
        goesOn .sending [] { s.agent.cur with frame := frame } s.agent.inbox) ∧
      (s.agent.phase = .sending → ∃ t, step s = .next t ∧ t.agent.phase = .receiving ∧
        t.agent.writes = s.agent.cur.frame :: s.agent.writes ∧
        t.agent.cur = { s.agent.cur with attempts := s.agent.cur.attempts + 1 } ∧ t.issue = [] ∧
        t.agent.inbox = s.agent.inbox ∧ t.agent.task = s.agent.task ∧ t.agent.calls = s.agent.calls ∧
        t.agent.results = s.agent.results ∧ t.agent.session = s.agent.session) ∧
      (s.agent.phase = .receiving → (∀ a, s.agent.inbox.head? = some a → a.bytes = []) →
        s.agent.cur.attempts < s.cfg.retryBudget → goesOn .sending [] s.agent.cur s.agent.inbox.tail) ∧
      (∀ a, s.agent.phase = .receiving → s.agent.inbox.head? = some a → a.bytes ≠ [] → 0 < s.agent.cur.nExp →
        goesOn .decoding
          (.bufClr :: (a.bytes.take s.agent.cur.nExp).map .bufPush ++ [.frmDecode s.agent.cur.command])
          s.agent.cur s.agent.inbox.tail) ∧
      (∀ r rs, s.agent.phase = .decoding → s.rsps = r :: rs → r.ok = false → r.err = 2#4 →
        s.agent.cur.attempts < s.cfg.retryBudget → goesOn .sending [] s.agent.cur s.agent.inbox) ∧
      (s.agent.task = .exchange →
        (∀ r rs, s.agent.phase = .encoding → s.rsps = r :: rs →
          r.ok = false ∨ s.cfg.schema s.agent.cur.command = none → ends .constructionError ∧
            ∃ t, step s = .next t ∧ t.agent.inbox = s.agent.inbox) ∧
        (s.agent.phase = .receiving → (∀ a, s.agent.inbox.head? = some a → a.bytes = []) →
          s.cfg.retryBudget ≤ s.agent.cur.attempts → ends .timeout) ∧
        (∀ r rs, s.agent.phase = .decoding → s.rsps = r :: rs →
          (r.ok = true → goesOn .valuing [.valDecode s.agent.cur.command] s.agent.cur s.agent.inbox) ∧
          (r.ok = false → r.err = 2#4 → s.cfg.retryBudget ≤ s.agent.cur.attempts → ends .corruptResponse) ∧
          (r.ok = false → r.err = 1#4 ∨ r.err = 4#4 ∨ r.err = 6#4 → ends (.decodeFailed r.err))) ∧
        (∀ r rs, s.agent.phase = .valuing → s.rsps = r :: rs →
          (r.ok = true → goesOn .readKind [.regRead 0x07#8, .regRead 0x08#8] s.agent.cur s.agent.inbox) ∧
          (r.ok = false → ends (.decodeFailed r.err))))) ∧
    (s.agent.task = .exchange → s.agent.phase = .readKind → s.issue = presented [.regRead 0x07#8, .regRead 0x08#8] →
      s.val.cnt.toNat ≤ 16 →
      ∃ t m, run (3 * s.val.cnt.toNat + 4) s = .next t ∧ t.agent.results = .measured m :: s.agent.results ∧
        m.kind = s.val.kind ∧ m.slots.length = s.val.cnt.toNat ∧
        (∀ i : Fin 16, i.val < s.val.cnt.toNat → m.slots[i.val]? = some ⟨s.val.raw[i], s.val.div[i], s.val.qty[i]⟩) ∧
        t.agent.phase = .idle ∧ t.issue = [] ∧ t.val = s.val ∧ t.st = s.st ∧ t.agent.session = s.agent.session)
end

