-- ==== Sys2Proof/Laws/State.lean ====
section
/-! SUPPORT. One lemma per field for every shared update of the state, and the fields of ST after a command is
recorded. -/

namespace Sys2Proof.Machine

@[simp] theorem State.clearResponse_cfg (s : State) : s.clearResponse.cfg = s.cfg := rfl
@[simp] theorem State.clearResponse_mem (s : State) : s.clearResponse.mem = s.mem := rfl
@[simp] theorem State.clearResponse_len (s : State) : s.clearResponse.len = s.len := rfl
@[simp] theorem State.clearResponse_crc (s : State) : s.clearResponse.crc = s.crc := rfl
@[simp] theorem State.clearResponse_st (s : State) : s.clearResponse.st = { s.st with rValid := false } := rfl
@[simp] theorem State.clearResponse_resp (s : State) : s.clearResponse.resp = .zero := rfl
@[simp] theorem State.clearResponse_nakc (s : State) : s.clearResponse.nakc = s.nakc := rfl
@[simp] theorem State.clearResponse_val (s : State) : s.clearResponse.val = s.val := rfl
@[simp] theorem State.clearResponse_issue (s : State) : s.clearResponse.issue = s.issue := rfl
@[simp] theorem State.clearResponse_rsps (s : State) : s.clearResponse.rsps = s.rsps := rfl
@[simp] theorem State.clearResponse_agent (s : State) : s.clearResponse.agent = s.agent := rfl
@[simp] theorem State.clearResponse_content (s : State) : s.clearResponse.content = s.content := rfl

@[simp] theorem State.clearValues_cfg (s : State) : s.clearValues.cfg = s.cfg := rfl
@[simp] theorem State.clearValues_mem (s : State) : s.clearValues.mem = s.mem := rfl
@[simp] theorem State.clearValues_len (s : State) : s.clearValues.len = s.len := rfl
@[simp] theorem State.clearValues_crc (s : State) : s.clearValues.crc = s.crc := rfl
@[simp] theorem State.clearValues_st (s : State) : s.clearValues.st = { s.st with vValid := false } := rfl
@[simp] theorem State.clearValues_resp (s : State) : s.clearValues.resp = s.resp := rfl
@[simp] theorem State.clearValues_nakc (s : State) : s.clearValues.nakc = s.nakc := rfl
@[simp] theorem State.clearValues_val (s : State) : s.clearValues.val = .zero := rfl
@[simp] theorem State.clearValues_issue (s : State) : s.clearValues.issue = s.issue := rfl
@[simp] theorem State.clearValues_rsps (s : State) : s.clearValues.rsps = s.rsps := rfl
@[simp] theorem State.clearValues_agent (s : State) : s.clearValues.agent = s.agent := rfl

@[simp] theorem State.finish_cfg (s : State) (op : Nibble) (r : Response) : (s.finish op r).cfg = s.cfg := rfl
@[simp] theorem State.finish_mem (s : State) (op : Nibble) (r : Response) : (s.finish op r).mem = s.mem := rfl
@[simp] theorem State.finish_len (s : State) (op : Nibble) (r : Response) : (s.finish op r).len = s.len := rfl
@[simp] theorem State.finish_crc (s : State) (op : Nibble) (r : Response) : (s.finish op r).crc = s.crc := rfl
@[simp] theorem State.finish_st (s : State) (op : Nibble) (r : Response) : (s.finish op r).st = s.st.record op r := rfl
@[simp] theorem State.finish_resp (s : State) (op : Nibble) (r : Response) : (s.finish op r).resp = s.resp := rfl
@[simp] theorem State.finish_nakc (s : State) (op : Nibble) (r : Response) : (s.finish op r).nakc = s.nakc := rfl
@[simp] theorem State.finish_val (s : State) (op : Nibble) (r : Response) : (s.finish op r).val = s.val := rfl
@[simp] theorem State.finish_issue (s : State) (op : Nibble) (r : Response) : (s.finish op r).issue = s.issue := rfl
@[simp] theorem State.finish_rsps (s : State) (op : Nibble) (r : Response) : (s.finish op r).rsps = r :: s.rsps := rfl
@[simp] theorem State.finish_agent (s : State) (op : Nibble) (r : Response) : (s.finish op r).agent = s.agent := rfl

@[simp] theorem State.resetBlock_cfg (s : State) : s.resetBlock.cfg = s.cfg := rfl
@[simp] theorem State.resetBlock_mem (s : State) : s.resetBlock.mem = [] := rfl
@[simp] theorem State.resetBlock_len (s : State) : s.resetBlock.len = 0 := rfl
@[simp] theorem State.resetBlock_crc (s : State) : s.resetBlock.crc = 0xFFFF#16 := rfl
@[simp] theorem State.resetBlock_st (s : State) : s.resetBlock.st = .zero := rfl
@[simp] theorem State.resetBlock_resp (s : State) : s.resetBlock.resp = .zero := rfl
@[simp] theorem State.resetBlock_nakc (s : State) : s.resetBlock.nakc = 0#8 := rfl
@[simp] theorem State.resetBlock_val (s : State) : s.resetBlock.val = .zero := rfl
@[simp] theorem State.resetBlock_issue (s : State) : s.resetBlock.issue = s.issue := rfl
@[simp] theorem State.resetBlock_rsps (s : State) : s.resetBlock.rsps = s.rsps := rfl
@[simp] theorem State.resetBlock_agent (s : State) : s.resetBlock.agent = s.agent := rfl

@[simp] theorem State.issueCmds_cfg (s : State) (is : List Instr) (ph : Phase) : (s.issueCmds is ph).cfg = s.cfg := rfl
@[simp] theorem State.issueCmds_mem (s : State) (is : List Instr) (ph : Phase) : (s.issueCmds is ph).mem = s.mem := rfl
@[simp] theorem State.issueCmds_len (s : State) (is : List Instr) (ph : Phase) : (s.issueCmds is ph).len = s.len := rfl
@[simp] theorem State.issueCmds_crc (s : State) (is : List Instr) (ph : Phase) : (s.issueCmds is ph).crc = s.crc := rfl
@[simp] theorem State.issueCmds_st (s : State) (is : List Instr) (ph : Phase) : (s.issueCmds is ph).st = s.st := rfl
@[simp] theorem State.issueCmds_resp (s : State) (is : List Instr) (ph : Phase) : (s.issueCmds is ph).resp = s.resp := rfl
@[simp] theorem State.issueCmds_nakc (s : State) (is : List Instr) (ph : Phase) : (s.issueCmds is ph).nakc = s.nakc := rfl
@[simp] theorem State.issueCmds_val (s : State) (is : List Instr) (ph : Phase) : (s.issueCmds is ph).val = s.val := rfl
@[simp] theorem State.issueCmds_issue (s : State) (is : List Instr) (ph : Phase) : (s.issueCmds is ph).issue = s.issue ++ is.map (fun i => .command (encode i)) := rfl
@[simp] theorem State.issueCmds_rsps (s : State) (is : List Instr) (ph : Phase) : (s.issueCmds is ph).rsps = s.rsps := rfl
@[simp] theorem State.issueCmds_agent (s : State) (is : List Instr) (ph : Phase) : (s.issueCmds is ph).agent = { s.agent with phase := ph } := rfl

@[simp] theorem State.toPhase_cfg (s : State) (ph : Phase) : (s.toPhase ph).cfg = s.cfg := rfl
@[simp] theorem State.toPhase_mem (s : State) (ph : Phase) : (s.toPhase ph).mem = s.mem := rfl
@[simp] theorem State.toPhase_len (s : State) (ph : Phase) : (s.toPhase ph).len = s.len := rfl
@[simp] theorem State.toPhase_crc (s : State) (ph : Phase) : (s.toPhase ph).crc = s.crc := rfl
@[simp] theorem State.toPhase_st (s : State) (ph : Phase) : (s.toPhase ph).st = s.st := rfl
@[simp] theorem State.toPhase_resp (s : State) (ph : Phase) : (s.toPhase ph).resp = s.resp := rfl
@[simp] theorem State.toPhase_nakc (s : State) (ph : Phase) : (s.toPhase ph).nakc = s.nakc := rfl
@[simp] theorem State.toPhase_val (s : State) (ph : Phase) : (s.toPhase ph).val = s.val := rfl
@[simp] theorem State.toPhase_issue (s : State) (ph : Phase) : (s.toPhase ph).issue = s.issue := rfl
@[simp] theorem State.toPhase_rsps (s : State) (ph : Phase) : (s.toPhase ph).rsps = s.rsps := rfl
@[simp] theorem State.toPhase_agent (s : State) (ph : Phase) : (s.toPhase ph).agent = { s.agent with phase := ph } := rfl

@[simp] theorem State.toSession_cfg (s : State) (p : SessionPhase) : (s.toSession p).cfg = s.cfg := rfl
@[simp] theorem State.toSession_mem (s : State) (p : SessionPhase) : (s.toSession p).mem = s.mem := rfl
@[simp] theorem State.toSession_len (s : State) (p : SessionPhase) : (s.toSession p).len = s.len := rfl
@[simp] theorem State.toSession_crc (s : State) (p : SessionPhase) : (s.toSession p).crc = s.crc := rfl
@[simp] theorem State.toSession_st (s : State) (p : SessionPhase) : (s.toSession p).st = s.st := rfl
@[simp] theorem State.toSession_resp (s : State) (p : SessionPhase) : (s.toSession p).resp = s.resp := rfl
@[simp] theorem State.toSession_nakc (s : State) (p : SessionPhase) : (s.toSession p).nakc = s.nakc := rfl
@[simp] theorem State.toSession_val (s : State) (p : SessionPhase) : (s.toSession p).val = s.val := rfl
@[simp] theorem State.toSession_issue (s : State) (p : SessionPhase) : (s.toSession p).issue = s.issue := rfl
@[simp] theorem State.toSession_rsps (s : State) (p : SessionPhase) : (s.toSession p).rsps = s.rsps := rfl
@[simp] theorem State.toSession_agent (s : State) (p : SessionPhase) : (s.toSession p).agent = { s.agent with session := { s.agent.session with phase := p } } := rfl

@[simp] theorem State.endCall_cfg (s : State) (r : CallResult) : (s.endCall r).cfg = s.cfg := rfl
@[simp] theorem State.endCall_mem (s : State) (r : CallResult) : (s.endCall r).mem = s.mem := rfl
@[simp] theorem State.endCall_len (s : State) (r : CallResult) : (s.endCall r).len = s.len := rfl
@[simp] theorem State.endCall_crc (s : State) (r : CallResult) : (s.endCall r).crc = s.crc := rfl
@[simp] theorem State.endCall_st (s : State) (r : CallResult) : (s.endCall r).st = s.st := rfl
@[simp] theorem State.endCall_resp (s : State) (r : CallResult) : (s.endCall r).resp = s.resp := rfl
@[simp] theorem State.endCall_nakc (s : State) (r : CallResult) : (s.endCall r).nakc = s.nakc := rfl
@[simp] theorem State.endCall_val (s : State) (r : CallResult) : (s.endCall r).val = s.val := rfl
@[simp] theorem State.endCall_issue (s : State) (r : CallResult) : (s.endCall r).issue = s.issue := rfl
@[simp] theorem State.endCall_rsps (s : State) (r : CallResult) : (s.endCall r).rsps = s.rsps := rfl
@[simp] theorem State.endCall_agent (s : State) (r : CallResult) : (s.endCall r).agent = { s.agent with phase := .idle, task := .exchange, cur := .empty, results := r :: s.agent.results } := rfl

@[simp] theorem State.restartHost_cfg (s : State) : s.restartHost.cfg = s.cfg := rfl
@[simp] theorem State.restartHost_mem (s : State) : s.restartHost.mem = s.mem := rfl
@[simp] theorem State.restartHost_len (s : State) : s.restartHost.len = s.len := rfl
@[simp] theorem State.restartHost_crc (s : State) : s.restartHost.crc = s.crc := rfl
@[simp] theorem State.restartHost_st (s : State) : s.restartHost.st = s.st := rfl
@[simp] theorem State.restartHost_resp (s : State) : s.restartHost.resp = s.resp := rfl
@[simp] theorem State.restartHost_nakc (s : State) : s.restartHost.nakc = s.nakc := rfl
@[simp] theorem State.restartHost_val (s : State) : s.restartHost.val = s.val := rfl
@[simp] theorem State.restartHost_rsps (s : State) : s.restartHost.rsps = s.rsps := rfl
@[simp] theorem State.restartHost_issue (s : State) : s.restartHost.issue = s.issue.filter fun e => !e.isCommand := rfl
@[simp] theorem State.restartHost_agent (s : State) : s.restartHost.agent = { s.agent with session := .initial, phase := s.agent.phase.restarted, task := .exchange, cur := .empty } := rfl

@[simp] theorem State.withFetchWord_cfg (s : State) (n w : Nat) : (s.withFetchWord n w).cfg = s.cfg := rfl
@[simp] theorem State.withFetchWord_mem (s : State) (n w : Nat) : (s.withFetchWord n w).mem = s.mem := rfl
@[simp] theorem State.withFetchWord_len (s : State) (n w : Nat) : (s.withFetchWord n w).len = s.len := rfl
@[simp] theorem State.withFetchWord_crc (s : State) (n w : Nat) : (s.withFetchWord n w).crc = s.crc := rfl
@[simp] theorem State.withFetchWord_st (s : State) (n w : Nat) : (s.withFetchWord n w).st = s.st := rfl
@[simp] theorem State.withFetchWord_resp (s : State) (n w : Nat) : (s.withFetchWord n w).resp = s.resp := rfl
@[simp] theorem State.withFetchWord_nakc (s : State) (n w : Nat) : (s.withFetchWord n w).nakc = s.nakc := rfl
@[simp] theorem State.withFetchWord_val (s : State) (n w : Nat) : (s.withFetchWord n w).val = s.val := rfl
@[simp] theorem State.withFetchWord_issue (s : State) (n w : Nat) : (s.withFetchWord n w).issue = .command (tableWord n w) :: s.issue := rfl
@[simp] theorem State.withFetchWord_rsps (s : State) (n w : Nat) : (s.withFetchWord n w).rsps = s.rsps := rfl
@[simp] theorem State.withFetchWord_agent (s : State) (n w : Nat) : (s.withFetchWord n w).agent = s.agent := rfl

@[simp] theorem Status.record_rValid (st : Status) (op : Nibble) (r : Response) : (st.record op r).rValid = st.rValid := by
  unfold Status.record; split <;> rfl

@[simp] theorem Status.record_vValid (st : Status) (op : Nibble) (r : Response) : (st.record op r).vValid = st.vValid := by
  unfold Status.record; split <;> rfl

/-- A recorded command leaves its opcode and outcome (R19). -/
theorem Status.record_recorded {op : Nibble} (h : recorded op = true) (st : Status) (r : Response) :
    st.record op r = { st with lastOp := op, ok := r.ok, err := r.err } := by simp [Status.record, h]

/-- BUF.READ and REG.READ leave ST as it is (R19). -/
theorem Status.record_not_recorded {op : Nibble} (h : recorded op = false) (st : Status) (r : Response) :
    st.record op r = st := by simp [Status.record, h]

@[simp] theorem recorded_bufRead : recorded 0x3#4 = false := rfl
@[simp] theorem recorded_regRead : recorded 0xB#4 = false := rfl
@[simp] theorem recorded_bufClr : recorded 0x1#4 = true := rfl
@[simp] theorem recorded_bufPush : recorded 0x2#4 = true := rfl
@[simp] theorem recorded_crcInit : recorded 0x4#4 = true := rfl
@[simp] theorem recorded_crcUpdate : recorded 0x5#4 = true := rfl
@[simp] theorem recorded_crcCompute : recorded 0x6#4 = true := rfl
@[simp] theorem recorded_crcVerify : recorded 0x7#4 = true := rfl
@[simp] theorem recorded_frmEncode : recorded 0x8#4 = true := rfl
@[simp] theorem recorded_frmDecode : recorded 0x9#4 = true := rfl
@[simp] theorem recorded_valDecode : recorded 0xA#4 = true := rfl
@[simp] theorem recorded_rst : recorded 0xF#4 = true := rfl

@[simp] theorem State.succeed_eq_next (s : State) (op : Nibble) (d : Data) :
    s.succeed op d = .next (s.finish op (.success d)) := rfl
@[simp] theorem State.raise_eq_next (s : State) (op : Nibble) (e : Err) :
    s.raise op e = .next (s.finish op (.error e)) := rfl

end Sys2Proof.Machine
end

