-- ==== Sys2Proof/Laws/Memory.lean ====
section
/-! SUPPORT. The laws of the frame buffer: a byte read after a write, the canonical form kept by every operation, the
range of the listed addresses, and the content after an append. -/

namespace Sys2Proof.Machine

theorem Memory.wf_nil : Memory.wf [] := ⟨List.Pairwise.nil, by simp⟩

/-- Below every listed address a byte reads as 0. -/
theorem Memory.read_eq_zero_of_lt {m : Memory} {a : Nat} (h : ∀ c ∈ m, a < c.1) : m.read a = 0#8 := by
  induction m with
  | nil => rfl
  | cons c m ih =>
    have hc := h c (by simp)
    simp only [Memory.read]
    rw [if_neg (by omega)]
    exact ih fun d hd => h d (by simp [hd])

theorem Memory.read_cons (m : Memory) (k : Nat) (b : Byte) (a : Nat) (hk : a = k → b = 0#8 → m.read a = 0#8) :
    (Memory.cons k b m).read a = if a = k then b else m.read a := by
  unfold Memory.cons
  by_cases hb : b = 0#8
  · by_cases ha : a = k
    · subst ha; simp [hb, hk rfl hb]
    · simp [hb, ha]
  · simp [hb, Memory.read]

/-- A byte read after a write to the same place is the byte written; every other place reads as before. -/
theorem Memory.read_write {m : Memory} (hm : m.wf) (k : Nat) (b : Byte) (a : Nat) :
    (m.write k b).read a = if a = k then b else m.read a := by
  induction m with
  | nil => exact Memory.read_cons [] k b a fun _ _ => rfl
  | cons c m ih =>
    obtain ⟨j, v⟩ := c
    obtain ⟨hj, hm'⟩ := List.pairwise_cons.1 hm.1
    have wfm : Memory.wf m := ⟨hm', fun d hd => hm.2 d (by simp [hd])⟩
    simp only [Memory.write]
    split
    · next hlt =>
      refine Memory.read_cons _ k b a fun ha _ => Memory.read_eq_zero_of_lt fun d hd => ?_
      rcases List.mem_cons.1 hd with rfl | hd
      · simpa [ha] using hlt
      · have := hj d hd; simp at this; omega
    · split
      · next h =>
        subst h
        rw [Memory.read_cons _ k b a fun ha _ => Memory.read_eq_zero_of_lt fun d hd => by
          have := hj d hd; simp at this; omega]
        by_cases ha : a = k <;> simp [Memory.read, ha]
      · next hne =>
        simp only [Memory.read]
        rw [ih wfm]
        by_cases haj : a = j
        · subst haj; simp; intro h; exact absurd h.symm hne
        · simp [haj]

/-- The addresses a write lists were listed before, or are the one written. -/
theorem Memory.mem_write {m : Memory} {k : Nat} {b : Byte} {c : Host.Cell} (h : c ∈ m.write k b) :
    c.1 = k ∧ c.2 ≠ 0#8 ∨ c ∈ m := by
  have hcons : ∀ m', c ∈ Memory.cons k b m' → c.1 = k ∧ c.2 ≠ 0#8 ∨ c ∈ m' := by
    intro m' hc
    unfold Memory.cons at hc
    split at hc
    · exact .inr hc
    · next hb => rcases List.mem_cons.1 hc with rfl | hc
                 · exact .inl ⟨rfl, hb⟩
                 · exact .inr hc
  induction m with
  | nil => exact hcons _ h
  | cons d m ih =>
    obtain ⟨j, v⟩ := d
    simp only [Memory.write] at h
    split at h
    · exact hcons _ h
    · split at h
      · rcases hcons _ h with h | h
        · exact .inl h
        · exact .inr (List.mem_cons_of_mem _ h)
      · rcases List.mem_cons.1 h with rfl | h
        · exact .inr (by simp)
        · rcases ih h with h | h
          · exact .inl h
          · exact .inr (List.mem_cons_of_mem _ h)

theorem Memory.wf_cons {k : Nat} {b : Byte} {m : Memory} (hm : m.wf) (hk : ∀ d ∈ m, k < d.1) :
    (Memory.cons k b m).wf := by
  unfold Memory.cons
  split
  · exact hm
  · next hb =>
    refine ⟨List.pairwise_cons.2 ⟨hk, hm.1⟩, fun d hd => ?_⟩
    rcases List.mem_cons.1 hd with rfl | hd
    · exact hb
    · exact hm.2 d hd

/-- A write keeps the canonical form. -/
theorem Memory.wf_write {m : Memory} (hm : m.wf) (k : Nat) (b : Byte) : (m.write k b).wf := by
  induction m with
  | nil => exact Memory.wf_cons Memory.wf_nil (by simp)
  | cons c m ih =>
    obtain ⟨j, v⟩ := c
    obtain ⟨hj, hm'⟩ := List.pairwise_cons.1 hm.1
    have wfm : Memory.wf m := ⟨hm', fun d hd => hm.2 d (by simp [hd])⟩
    simp only [Memory.write]
    split
    · next hlt =>
      refine Memory.wf_cons hm fun d hd => ?_
      rcases List.mem_cons.1 hd with rfl | hd
      · exact hlt
      · have := hj d hd; simp at this; omega
    · split
      · next h => subst h; exact Memory.wf_cons wfm hj
      · next hlt hne =>
        refine ⟨List.pairwise_cons.2 ⟨fun d hd => ?_, (ih wfm).1⟩, fun d hd => ?_⟩
        · rcases Memory.mem_write hd with ⟨h, -⟩ | h
          · simp [h]; omega
          · exact hj d h
        · rcases List.mem_cons.1 hd with rfl | hd
          · exact hm.2 _ (by simp)
          · exact (ih wfm).2 d hd

/-- Writing bytes keeps the canonical form. -/
theorem Memory.wf_writeBytes {m : Memory} (hm : m.wf) (a : Nat) (bs : List Byte) : (m.writeBytes a bs).wf := by
  induction bs generalizing m a with
  | nil => exact hm
  | cons b bs ih => exact ih (Memory.wf_write hm a b) (a + 1)

/-- The addresses listed after writing bytes were listed before, or are among those written. -/
theorem Memory.mem_writeBytes {m : Memory} {a : Nat} {bs : List Byte} {c : Host.Cell}
    (h : c ∈ m.writeBytes a bs) : (a ≤ c.1 ∧ c.1 < a + bs.length) ∨ c ∈ m := by
  induction bs generalizing m a with
  | nil => exact .inr h
  | cons b bs ih =>
    rcases ih h with h | h
    · left; simp; omega
    · rcases Memory.mem_write h with ⟨h, -⟩ | h
      · left; simp; omega
      · exact .inr h

/-- A byte read after bytes are written. -/
theorem Memory.read_writeBytes {m : Memory} (hm : m.wf) (k : Nat) (bs : List Byte) (a : Nat) :
    (m.writeBytes k bs).read a = if k ≤ a ∧ a < k + bs.length then bs.getD (a - k) 0#8 else m.read a := by
  induction bs generalizing m k with
  | nil => simp [Memory.writeBytes]
  | cons b bs ih =>
    rw [Memory.writeBytes, ih (Memory.wf_write hm k b), Memory.read_write hm]
    simp only [List.length_cons]
    by_cases hk : a = k
    · subst hk; simp
    · by_cases hr : k + 1 ≤ a ∧ a < k + 1 + bs.length
      · have e : a - k = (a - (k + 1)) + 1 := by omega
        rw [if_pos hr, if_pos (by omega), e, List.getD_cons_succ]
      · rw [if_neg hr, if_neg hk, if_neg (by omega)]

@[simp] theorem Memory.length_readBytes (m : Memory) (a n : Nat) : (m.readBytes a n).length = n := by
  induction n generalizing a with
  | zero => rfl
  | succ n ih => simp [Memory.readBytes, ih]

@[simp] theorem Memory.getElem_readBytes (m : Memory) (a n i : Nat) (h : i < (m.readBytes a n).length) :
    (m.readBytes a n)[i] = m.read (a + i) := by
  induction n generalizing a i with
  | zero => exact absurd h (by simp [Memory.readBytes])
  | succ n ih =>
    cases i with
    | zero => rfl
    | succ i => simp only [Memory.readBytes, List.getElem_cons_succ]; rw [ih]; congr 1; omega

theorem Memory.readBytes_congr {m m' : Memory} {a n : Nat} (h : ∀ i, a ≤ i → i < a + n → m.read i = m'.read i) :
    m.readBytes a n = m'.readBytes a n := by
  apply List.ext_getElem (by simp)
  intro i h1 h2
  simp only [Memory.length_readBytes] at h1
  simp only [Memory.getElem_readBytes]
  exact h _ (by omega) (by omega)

theorem Memory.readBytes_append (m : Memory) (a n k : Nat) :
    m.readBytes a (n + k) = m.readBytes a n ++ m.readBytes (a + n) k := by
  induction n generalizing a with
  | zero => simp [Memory.readBytes]
  | succ n ih =>
    have e : a + (n + 1) = a + 1 + n := by omega
    rw [Nat.succ_add, Memory.readBytes, ih, Memory.readBytes, List.cons_append, e]

@[simp] theorem State.length_content (s : State) : s.content.length = s.len := by simp [State.content]

/-- Byte `i` of the content. -/
theorem State.getD_content (s : State) (i : Nat) :
    s.content.getD i 0#8 = if i < s.len then s.mem.read i else 0#8 := by
  by_cases h : i < s.len
  · rw [List.getD_eq_getElem _ _ (by simpa using h)]; simp [State.content, h]
  · rw [List.getD_eq_default _ _ (by simpa using h)]; simp [h]

/-- Writing bytes right behind the content and counting them appends them to the content. -/
theorem Memory.readBytes_writeBytes_append {m : Memory} (hm : m.wf) (n : Nat) (bs : List Byte) :
    (m.writeBytes n bs).readBytes 0 (n + bs.length) = m.readBytes 0 n ++ bs := by
  rw [Memory.readBytes_append]
  congr 1
  · refine Memory.readBytes_congr fun i _ hi => ?_
    rw [Memory.read_writeBytes hm, if_neg (by omega)]
  · apply List.ext_getElem (by simp)
    intro i h1 h2
    simp only [Memory.getElem_readBytes, Nat.zero_add]
    rw [Memory.read_writeBytes hm, if_pos (by omega)]
    have e : n + i - n = i := by omega
    rw [e, List.getD_eq_getElem _ _ h2]

/-- A MemWrite that is defined writes the bytes and nothing else (R41). -/
theorem State.memWrite_some {s t : State} {a : Nat} {bs : List Byte} (h : s.memWrite a bs = some t) :
    a + bs.length ≤ s.cfg.frameMax ∧ t = { s with mem := s.mem.writeBytes a bs } := by
  unfold State.memWrite at h
  split at h
  · next hle => exact ⟨hle, (Option.some.inj h).symm⟩
  · exact absurd h (by simp)

/-- A MemRead that is defined gives the bytes (R41). -/
theorem State.memRead_some {s : State} {a n : Nat} {bs : List Byte} (h : s.memRead a n = some bs) :
    a + n ≤ s.len ∧ bs = s.mem.readBytes a n := by
  unfold State.memRead at h
  split at h
  · next hle => exact ⟨hle, (Option.some.inj h).symm⟩
  · exact absurd h (by simp)

/-- A MemWrite keeps the canonical form. -/
theorem State.memWrite_wf {s t : State} {a : Nat} {bs : List Byte} (hm : s.mem.wf) (h : s.memWrite a bs = some t) :
    t.mem.wf := by
  obtain ⟨-, rfl⟩ := State.memWrite_some h
  exact Memory.wf_writeBytes hm a bs

/-- Memory after reset is in the canonical form. -/
theorem State.reset_mem_wf : State.reset.mem.wf := Memory.wf_nil

end Sys2Proof.Machine
end

