-- ==== Sys2Proof/Laws/Ops.lean ====
section
/-! SUPPORT. What the step and the lookups can do, said once. -/

namespace Sys2Proof.Machine

/-- A step that answers a next state ran a legal configuration, and was either what was presented at the port or the
host's turn. -/
theorem step_next {s t : State} (h : step s = .next t) :
    s.cfg.valid = true ∧
      ((∃ e es, s.issue = e :: es ∧ runEvent e { s with issue := es } = .next t) ∨
        (s.issue = [] ∧ agentTurn s = .next t)) := by
  unfold step at h
  split at h
  · next hv =>
    refine ⟨hv, ?_⟩
    unfold State.takeEvent at h
    cases hi : s.issue with
    | nil => rw [hi] at h; exact .inr ⟨rfl, h⟩
    | cons e es => rw [hi] at h; exact .inl ⟨e, es, rfl, h⟩
  · exact absurd h (by simp)

/-- A presented event of a legal instance is what the step runs. -/
theorem step_of_issue {s : State} {e : PortEvent} {es : List PortEvent} (hv : s.cfg.valid = true)
    (hi : s.issue = e :: es) : step s = runEvent e { s with issue := es } := by
  simp [step, hv, State.takeEvent, hi]

/-- With nothing presented, a step of a legal instance is the host's turn. -/
theorem step_of_idle_port {s : State} (hv : s.cfg.valid = true) (hi : s.issue = []) : step s = agentTurn s := by
  simp [step, hv, State.takeEvent, hi]

/-- A code that a table gives a value stands in it. -/
theorem mem_of_lookup {α : Type} {l : List (Byte × α)} {c : Byte} {x : α} (h : l.lookup c = some x) :
    ∃ e ∈ l, e.1 = c := by
  induction l with
  | nil => simp at h
  | cons e l ih =>
    obtain ⟨k, v⟩ := e
    by_cases hk : c = k
    · exact ⟨(k, v), by simp, hk.symm⟩
    · rw [List.lookup_cons] at h
      simp only [show (c == k) = false by simpa using hk] at h
      obtain ⟨e, he, hc⟩ := ih h
      exact ⟨e, by simp [he], hc⟩

end Sys2Proof.Machine
end

