-- ==== Sys2Proof/Laws/Exec.lean ====
section
/-! SUPPORT. What each command can do when it answers a next state, one inversion lemma per command that has more than
one outcome, and what no command word touches. A proof about all commands cites these and unfolds no meaning. -/

namespace Sys2Proof.Machine

/-- BUF.PUSH raises Overflow on a full buffer, else appends (R93). -/
theorem execBufPush_next {b : Byte} {s t : State} (h : execBufPush b s = .next t) :
    (s.len = s.cfg.frameMax ∧ t = s.clearResponse.finish 0x2#4 (.error .overflow)) ∨
      (s.len + 1 ≤ s.cfg.frameMax ∧
        t = ({ s.clearResponse with mem := s.mem.writeBytes s.len [b], len := s.len + 1 } : State).finish 0x2#4
          (.success (BitVec.ofNat 32 (s.len + 1)))) := by
  unfold execBufPush at h
  split at h
  · next hf => exact .inl ⟨hf, by simpa using h.symm⟩
  · cases hm : s.clearResponse.memWrite s.len [b] with
    | none => simp [hm] at h
    | some u =>
      obtain ⟨hr, rfl⟩ := State.memWrite_some hm
      exact .inr ⟨by simpa using hr, by simpa [hm] using h.symm⟩

/-- BUF.READ ends in a response alone (R94). -/
theorem execBufRead_next {i : Byte} {s t : State} (h : execBufRead i s = .next t) :
    ∃ r, t = s.finish 0x3#4 r ∧ (r = .error .illegalOp ∨ ∃ d, r = .success d) := by
  unfold execBufRead at h
  split at h
  · exact ⟨_, by simpa using h.symm, .inl rfl⟩
  · split at h
    · exact ⟨_, by simpa using h.symm, .inr ⟨_, rfl⟩⟩
    · cases h

/-- FRM.ENCODE raises ConstructionError, or puts the checksum behind the content (R104). -/
theorem execFrmEncode_next {s t : State} (h : execFrmEncode s = .next t) :
    t = s.clearResponse.finish 0x8#4 (.error .constructionError) ∨
      (s.len + 2 ≤ s.cfg.frameMax ∧
        t = ({ s.clearResponse with
          mem := s.mem.writeBytes s.len (split16 (crc16 s.cfg.polyR s.content)), len := s.len + 2 } : State).finish
            0x8#4 (.success (BitVec.ofNat 32 (s.len + 2)))) := by
  unfold execFrmEncode at h
  split at h
  · split at h
    · next e he =>
      have : e = .constructionError := by
        unfold frameEncode at he
        (repeat' split at he) <;> simp_all
      subst this
      exact .inl (by simpa using h.symm)
    · unfold State.appendFrameChecksum at h
      split at h
      · cases h
      · next u hu =>
        obtain ⟨hr, rfl⟩ := State.memWrite_some hu
        exact .inr ⟨by simpa [split16] using hr, by simpa using h.symm⟩
  · exact .inl (by simpa using h.symm)

/-- FRM.DECODE follows `frame_decode` (R106). -/
theorem execFrmDecode_next {c : Byte} {s t : State} (h : execFrmDecode c s = .next t) :
    (∃ e, frameDecode s.cfg s.content c = .error e ∧
      t = ({ s.clearResponse with nakc := nakcAfter (.error e) } : State).finish 0x9#4 (.error e)) ∨
    (∃ r, frameDecode s.cfg s.content c = .ok r ∧
      t = ({ s with
        st := { s.st with rValid := true }
        resp := ⟨r.address, r.status, s.len - 4⟩
        nakc := 0#8 } : State).finish 0x9#4 (.success (BitVec.ofNat 32 (s.len - 4)))) := by
  unfold execFrmDecode at h
  split at h
  · next e he => exact .inl ⟨e, he, by simpa using h.symm⟩
  · next r hr => exact .inr ⟨r, hr, by simpa using h.symm⟩

/-- VAL.DECODE raises one of four errors, or stores the Measurement (R118). -/
theorem execValDecode_next {c : Byte} {s t : State} (h : execValDecode c s = .next t) :
    (∃ e, (e = .noFrame ∨ e = .unknownCommand ∨ e = .badLength ∨ e = .badDigit) ∧
      t = s.clearValues.finish 0xA#4 (.error e)) ∨
    (∃ m q, valueDecode s.cfg c q = .ok m ∧
      t = ({ s with st := { s.st with vValid := true }, val := m.regs } : State).finish 0xA#4
        (.success (m.regs.cnt.setWidth 32))) := by
  unfold execValDecode at h
  split at h
  · exact .inl ⟨_, .inl rfl, by simpa using h.symm⟩
  · split at h
    · cases h
    · split at h
      · next e he =>
        refine .inl ⟨e, .inr ?_, by simpa using h.symm⟩
        revert he
        unfold valueDecode
        (repeat' split) <;> simp <;> rintro rfl <;> simp
      · next m hm => exact .inr ⟨m, _, hm, by simpa [State.storeValues] using h.symm⟩

/-- REG.READ ends in a response alone (R97). -/
theorem execRegRead_next {r : Byte} {s t : State} (h : execRegRead r s = .next t) :
    ∃ x, t = s.finish 0xB#4 x ∧ (x = .error .illegalOp ∨ ∃ d, x = .success d) := by
  unfold execRegRead at h
  split at h
  · exact ⟨_, by simpa using h.symm, .inl rfl⟩
  · exact ⟨_, by simpa using h.symm, .inr ⟨_, rfl⟩⟩

/-- No command touches the host, the configuration or the port (R14, R30). -/
theorem exec_keeps_host {i : Instr} {s t : State} (h : exec i s = .next t) :
    t.agent = s.agent ∧ t.cfg = s.cfg ∧ t.issue = s.issue := by
  cases i with
  | bufClr | crcInit | crcUpdate _ | crcCompute | crcVerify | rst => cases h; exact ⟨rfl, rfl, rfl⟩
  | bufPush b => obtain ⟨-, rfl⟩ | ⟨-, rfl⟩ := execBufPush_next h <;> exact ⟨rfl, rfl, rfl⟩
  | bufRead i => obtain ⟨r, rfl, -⟩ := execBufRead_next h; exact ⟨rfl, rfl, rfl⟩
  | frmEncode => obtain rfl | ⟨-, rfl⟩ := execFrmEncode_next h <;> exact ⟨rfl, rfl, rfl⟩
  | frmDecode c => obtain ⟨_, -, rfl⟩ | ⟨_, -, rfl⟩ := execFrmDecode_next h <;> exact ⟨rfl, rfl, rfl⟩
  | valDecode c => obtain ⟨_, -, rfl⟩ | ⟨_, _, -, rfl⟩ := execValDecode_next h <;> exact ⟨rfl, rfl, rfl⟩
  | regRead r => obtain ⟨_, rfl, -⟩ := execRegRead_next h; exact ⟨rfl, rfl, rfl⟩

/-- No command word, well-formed or not, touches the host, the configuration or what is presented behind it. -/
theorem runWord_keeps_host {w : Half} {s t : State} (h : runWord w s = .next t) :
    t.agent = s.agent ∧ t.cfg = s.cfg ∧ t.issue = s.issue := by
  unfold runWord at h
  split at h
  · exact exec_keeps_host h
  · cases h; exact ⟨rfl, rfl, rfl⟩

/-- The word of FRM.DECODE, executed, is what ST records (R19, R106). -/
theorem frmDecode_recorded {c : Byte} {s t : State} (h : exec (.frmDecode c) s = .next t) :
    ∃ r, t.rsps = r :: s.rsps ∧ t.st.lastOp = 0x9#4 ∧ t.st.ok = r.ok ∧ t.st.err = r.err ∧ t.st.rValid = r.ok := by
  obtain ⟨_, -, rfl⟩ | ⟨_, -, rfl⟩ := execFrmDecode_next h <;> exact ⟨_, rfl, rfl, rfl, rfl, rfl⟩

/-- A hardware reset touches neither the host nor what is presented behind it (R188). -/
theorem hardwareReset_keeps_host {s t : State} (h : hardwareReset s = .next t) :
    t.agent = s.agent ∧ t.cfg = s.cfg ∧ t.issue = s.issue := by
  cases h
  exact ⟨rfl, rfl, rfl⟩

/-- The host's turn is no turn, or its move (R14). -/
theorem agentTurn_next {s t : State} (h : agentTurn s = .next t) :
    (s.agent.quiet = true ∧ t = s) ∨ (s.agent.quiet = false ∧ s.cfg.hostValid = true ∧ t = s.hostMove) := by
  unfold agentTurn at h
  split at h
  · next hq => cases h; exact .inl ⟨hq, rfl⟩
  · next hq =>
    split at h
    · next hv => cases h; exact .inr ⟨by simpa using hq, hv, rfl⟩
    · cases h

/-- With nothing presented, a host that has something to do makes its move. -/
theorem step_of_host_move {s : State} (hv : s.cfg.valid = true) (hh : s.cfg.hostValid = true) (hi : s.issue = [])
    (hq : s.agent.quiet = false) : step s = .next s.hostMove := by
  rw [step_of_idle_port hv hi]
  simp [agentTurn, hq, hh]

/-- A host in a phase other than idle has something to do. -/
theorem Agent.quiet_of_phase {a : Agent} (h : a.phase ≠ .idle) : a.quiet = false := by simp [Agent.quiet, h]

/-- A restart takes no attempt out of flight and puts none into it (log 22). -/
@[simp] theorem Phase.inFlight_restarted (p : Phase) : p.restarted.inFlight = p.inFlight := by cases p <;> rfl

/-- A run takes its first step, then the rest. -/
theorem run_succ {s t : State} (n : Nat) (h : step s = .next t) : run (n + 1) s = run n t := by
  simp only [run, h]

end Sys2Proof.Machine
end

