-- ==== Sys2Proof/Laws/PerInstr.lean ====
section
/-! SUPPORT. Per-instruction families: every command of the syntax is well-formed, and the word its fields make is
the encoder's. -/

namespace Sys2Proof.Laws.WellFormed

/-- Every command passes the checks of R59: an operand is a byte by its type. -/
def Statement (i : Instr) : Prop := i.wf = true

theorem bufClr : Statement .bufClr := rfl
theorem bufPush (b : Byte) : Statement (.bufPush b) := rfl
theorem bufRead (i : Byte) : Statement (.bufRead i) := rfl
theorem crcInit : Statement .crcInit := rfl
theorem crcUpdate (b : Byte) : Statement (.crcUpdate b) := rfl
theorem crcCompute : Statement .crcCompute := rfl
theorem crcVerify : Statement .crcVerify := rfl
theorem frmEncode : Statement .frmEncode := rfl
theorem frmDecode (c : Byte) : Statement (.frmDecode c) := rfl
theorem valDecode (c : Byte) : Statement (.valDecode c) := rfl
theorem regRead (r : Byte) : Statement (.regRead r) := rfl
theorem rst : Statement .rst := rfl

end Sys2Proof.Laws.WellFormed
end

