-- ==== Sys2Proof/Tests/Slice0.lean ====
section
/-! SUPPORT. The model's own tests. Expected results are from `95_test_vectors.md` (the vector is named in each
comment) or worked by hand from the rule named. The last part has a witness for every statement with hypotheses: a
concrete state and operands that meet them together. -/

namespace Sys2Proof.Tests

open Sys2Proof Sys2Proof.Machine

/-! ## Small states -/

/-- A block that has been loaded with bytes, with a given configuration. -/
def loaded (cfg : Config) (bs : List Byte) : State :=
  { State.resetWith cfg with mem := Memory.writeBytes [] 0 bs, len := bs.length }

/-- The same with the bytes verified as a response. -/
def holding (cfg : Config) (bs : List Byte) : State :=
  { loaded cfg bs with
    st := ⟨0#4, true, true, false, 0x9#4⟩, resp := ⟨bs.getD 0 0#8, bs.getD 1 0#8, bs.length - 4⟩ }

/-- A word at the port. -/
def presenting (s : State) (w : Half) : State := { s with issue := [.command w] }

/-- What a step answered: its response word and the state. -/
def reached (o : Host.Outcome State Fault Refusal) : Option State :=
  match o with
  | .next t => some t
  | .fault _ => none
  | .refused _ => none

/-- The response word of an outcome. -/
def answered (o : Host.Outcome State Fault Refusal) : Option Response := (reached o).bind (·.rsps.head?)

/-- The clock response of V45, its energy response of V36, and the four-byte link response of V30. -/
def clockFrame : List Byte := [0x50#8, 0x00#8, 0x59#8, 0x34#8, 0x12#8, 0x10#8, 0x11#8, 0x26#8, 0x71#8, 0x0D#8]
def energyFrame : List Byte :=
  [0x50#8, 0x00#8, 0x00#8, 0x01#8, 0x23#8, 0x12#8, 0x34#8, 0x56#8, 0x00#8, 0x00#8, 0x00#8, 0x99#8, 0x99#8, 0x99#8,
   0x13#8, 0x35#8, 0x79#8, 0x0F#8, 0x6B#8]
def linkFrame : List Byte := [0x50#8, 0x00#8, 0x3D#8, 0xB0#8]

/-- EXCFG with the smallest buffer and the link test alone, and EXCFG with one BCD field in an INSTANT layout. -/
def tiny : Config := { excfg with frameMax := 4, schemaTable := [(0x00#8, ⟨0, 0, false, none⟩)] }
def bcdInstant : Config :=
  { excfg with schemaTable := [(0x30#8, ⟨0, 1, true, some (.instant [⟨1, .bcd, [0], 10, 0x02#8⟩])⟩)] }

/-- The host at a phase, its session with device `0x50`. -/
def hostAt (ph : Phase) (t : Task) (sp : SessionPhase) (cur : Exchange) (rsps : List Response) : State :=
  { State.resetWith excfg with
    rsps := rsps
    agent := { Agent.initial with phase := ph, task := t, cur := cur, session := ⟨sp, 0x50#8, 0, [0x01#8]⟩ } }

/-- A pass of `execute(0x04, [00])` with its frame kept (H3), after `n` attempts. -/
def clockPass (n : Nat) : Exchange :=
  ⟨0x04#8, [0x00#8], [0x50#8, 0x04#8, 0x00#8, 0x73#8, 0x11#8], 10, n, false⟩

/-- The host with its handshake's answer just decoded (H2, H5): BUF holds the verified link response. -/
def acked (t : Task) : State :=
  { holding excfg linkFrame with
    rsps := [⟨true, 0#4, 0#32⟩], agent := (hostAt .decoding t .opening (clockPass 1) []).agent }

/-! ## Well-formedness: each check refuses an ill-formed term -/

theorem test_wf_refuses_reserved_opcode : RawCommand.wf ⟨0xC#4, 0#4, 0#8⟩ = false := by decide
theorem test_wf_refuses_reserved_bits : RawCommand.wf ⟨0x2#4, 1#4, 0x50#8⟩ = false := by decide
theorem test_wf_refuses_unused_operand : RawCommand.wf ⟨0x1#4, 0#4, 0x01#8⟩ = false := by decide
theorem test_wf_accepts : RawCommand.wf ⟨0x2#4, 0#4, 0x50#8⟩ = true := by decide

theorem test_cfg_accepts_excfg : excfg.valid = true ∧ tiny.valid = true ∧ bcdInstant.valid = true := by decide
theorem test_cfg_refuses_zero_polynomial : Config.valid { excfg with polyR := 0#16 } = false := by decide
theorem test_cfg_refuses_small_buffer : Config.valid { tiny with frameMax := 3 } = false := by decide
theorem test_cfg_refuses_large_buffer : Config.valid { excfg with frameMax := 257 } = false := by decide
theorem test_cfg_refuses_long_request :
    Config.valid { tiny with schemaTable := [(0x00#8, ⟨1, 0, false, none⟩)] } = false := by decide
theorem test_cfg_refuses_long_response :
    Config.valid { tiny with schemaTable := [(0x00#8, ⟨0, 1, false, none⟩)] } = false := by decide
theorem test_cfg_refuses_layout_of_other_length :
    Config.valid { excfg with schemaTable := [(0x04#8, ⟨1, 5, true, some .datetime⟩)] } = false := by decide
theorem test_field_refuses_width : FieldDesc.valid ⟨5, .bin, permLE 5, 1, 0#8⟩ = false := by decide
theorem test_field_refuses_repeated_index : FieldDesc.valid ⟨2, .bin, [0, 0], 1, 0#8⟩ = false := by decide
theorem test_field_refuses_index_out_of_range : FieldDesc.valid ⟨2, .bin, [0, 2], 1, 0#8⟩ = false := by decide
theorem test_field_refuses_short_perm : FieldDesc.valid ⟨2, .bin, [0], 1, 0#8⟩ = false := by decide
theorem test_field_refuses_zero_divisor : FieldDesc.valid ⟨1, .bin, [0], 0, 0#8⟩ = false := by decide
theorem test_field_refuses_wide_divisor : FieldDesc.valid ⟨1, .bin, [0], 2 ^ 32, 0#8⟩ = false := by decide
theorem test_layout_refuses_no_tariff : Layout.valid (.energy 0 ⟨1, .bin, [0], 1, 0#8⟩) = false := by decide
theorem test_layout_refuses_seventeen_tariffs : Layout.valid (.energy 17 ⟨1, .bin, [0], 1, 0#8⟩) = false := by decide
theorem test_layout_refuses_no_field : Layout.valid (.instant []) = false := by decide
theorem test_layout_refuses_seventeen_fields :
    Layout.valid (.instant (List.replicate 17 ⟨1, .bin, [0], 1, 0#8⟩)) = false := by decide

/-! ## Decoding: a word of every command, written bit by bit from R56 and R57 -/

theorem test_decode_bufClr : decode 0b0001000000000000#16 = .ok .bufClr := by decide
theorem test_decode_bufPush : decode 0b0010000010101010#16 = .ok (.bufPush 0xAA#8) := by decide
theorem test_decode_bufRead : decode 0b0011000000000010#16 = .ok (.bufRead 0x02#8) := by decide
theorem test_decode_crcInit : decode 0b0100000000000000#16 = .ok .crcInit := by decide
theorem test_decode_crcUpdate : decode 0b0101000001010000#16 = .ok (.crcUpdate 0x50#8) := by decide
theorem test_decode_crcCompute : decode 0b0110000000000000#16 = .ok .crcCompute := by decide
theorem test_decode_crcVerify : decode 0b0111000000000000#16 = .ok .crcVerify := by decide
theorem test_decode_frmEncode : decode 0b1000000000000000#16 = .ok .frmEncode := by decide
theorem test_decode_frmDecode : decode 0b1001000000000101#16 = .ok (.frmDecode 0x05#8) := by decide
theorem test_decode_valDecode : decode 0b1010000000001000#16 = .ok (.valDecode 0x08#8) := by decide
theorem test_decode_regRead : decode 0b1011000000110001#16 = .ok (.regRead 0x31#8) := by decide
theorem test_decode_rst : decode 0b1111000000000000#16 = .ok .rst := by decide

/-- V29: the malformed words of R59, by each of its three conditions. -/
theorem test_decode_malformed :
    decode 0x0000#16 = .error .reservedOpcode ∧ decode 0xC000#16 = .error .reservedOpcode
      ∧ decode 0xD000#16 = .error .reservedOpcode ∧ decode 0xE000#16 = .error .reservedOpcode
      ∧ decode 0x2150#16 = .error .reservedBits ∧ decode 0xB100#16 = .error .reservedBits
      ∧ decode 0x1001#16 = .error .unusedOperand ∧ decode 0xF0FF#16 = .error .unusedOperand := by decide

theorem test_decodeTableWord :
    decodeTableWord 16 0x9005 = some (.frmDecode 0x05#8) ∧ decodeTableWord 16 0x0000 = none := by decide
/-- R66: `BUF.PUSH 0x50`. -/
theorem test_listing : (Instr.bufPush 0x50#8).listing = "BUF.PUSH 0x50" ∧ Instr.rst.listing = "RST" := by decide

/-! ## The pure functions -/

/-- V1, V2. -/
theorem test_crcBit : crcBit 0xA001#16 0xFFAF#16 = 0xDFD6#16 ∧ crcBit 0xA001#16 0xDFD6#16 = 0x6FEB#16 := by decide
/-- V3, V4. -/
theorem test_crcByte :
    crcByte 0xA001#16 0xFFFF#16 0x50#8 = 0x7CBF#16 ∧ crcByte 0xA001#16 0x7CBF#16 0x00#8 = 0xB03D#16 := by decide
/-- V7, and V15 for another polynomial. -/
theorem test_crc16_check_value :
    crc16 0xA001#16 [0x31#8, 0x32#8, 0x33#8, 0x34#8, 0x35#8, 0x36#8, 0x37#8, 0x38#8, 0x39#8] = 0x4B37#16
      ∧ crc16 0x8408#16 [0x31#8, 0x32#8, 0x33#8, 0x34#8, 0x35#8, 0x36#8, 0x37#8, 0x38#8, 0x39#8] = 0x6F91#16 := by
  decide +kernel
/-- V10. -/
theorem test_crcTable :
    crcTable 0xA001#16 0x80#8 = 0xA001#16 ∧ crcTable 0xA001#16 0xAF#8 = 0x7C40#16
      ∧ crcTable 0xA001#16 0xFF#8 = 0x4040#16 := by decide
/-- V11. -/
theorem test_crcVerify :
    crcVerify 0xA001#16 linkFrame = true ∧ crcVerify 0xA001#16 [0x50#8, 0x04#8, 0x3D#8, 0xB0#8] = false
      ∧ crcVerify 0xA001#16 [0xFF#8, 0xFF#8] = true ∧ crcVerify 0xA001#16 [0x12#8] = false := by decide +kernel
/-- V55 to V58. -/
theorem test_fieldRaw :
    fieldRaw ⟨4, .bin, permLE 4, 1, 0#8⟩ [0x40#8, 0xE2#8, 0x01#8, 0x00#8] = 123456
      ∧ fieldRaw ⟨2, .bin, permBE 2, 1, 0#8⟩ [0x13#8, 0x88#8] = 5000
      ∧ fieldRaw ⟨3, .bcd, permBE 3, 1, 0#8⟩ [0x00#8, 0x01#8, 0x23#8] = 123
      ∧ fieldRaw ⟨3, .bcd, permLE 3, 1, 0#8⟩ [0x23#8, 0x01#8, 0x00#8] = 123 := by decide
/-- R32, R120 by hand, for a byte order that is not its own inverse: significances 0, 1, 2 are bytes 1, 2, 0. -/
theorem test_fieldRaw_rotated :
    fieldRaw ⟨3, .bin, [1, 2, 0], 1, 0#8⟩ [0x01#8, 0x02#8, 0x03#8] = 0x010302
      ∧ fieldRaw ⟨3, .bcd, [1, 2, 0], 1, 0#8⟩ [0x01#8, 0x02#8, 0x03#8] = 10302 := by decide
/-- V61, V62. -/
theorem test_bcd :
    bcdOk 0x5A#8 = false ∧ bcdOk 0xA5#8 = false ∧ bcdOk 0x99#8 = true ∧ bcd2 0x59#8 = 59 ∧ bcd2 0x10#8 = 10 := by decide
/-- V52: the four instantaneous quantities. -/
theorem test_valueDecode_instant :
    valueDecode excfg 0x08#8
      [0xD8#8, 0x59#8, 0x00#8, 0x39#8, 0x30#8, 0x00#8, 0x40#8, 0xE2#8, 0x01#8, 0x13#8, 0x88#8]
      = .ok ⟨.instant, [⟨23000#32, 100#32, 0x02#8⟩, ⟨12345#32, 1000#32, 0x03#8⟩, ⟨123456#32, 100#32, 0x04#8⟩,
          ⟨5000#32, 100#32, 0x06#8⟩]⟩ := by decide
/-- V42 and V42b: the command code before the length. -/
theorem test_frameDecode_errors :
    frameDecode excfg linkFrame 0x77#8 = .error .unknownCommand
      ∧ frameDecode excfg linkFrame 0x04#8 = .error .badLength := by decide +kernel

/-! ## One step of each command -/

theorem test_bufClr : ((reached (step (presenting (loaded excfg energyFrame) 0x1000#16))).map (·.len)) = some 0 := by
  decide
/-- V25. -/
theorem test_bufPush :
    ((reached (step (presenting State.reset 0x2050#16))).map fun t => (t.content, t.st.word))
      = some ([0x50#8], 0x00000210#32) := by decide
/-- V26: a full buffer, here of four bytes. -/
theorem test_bufPush_overflow :
    ((reached (step (presenting (loaded tiny linkFrame) 0x2001#16))).map fun t => (t.content, t.st.word))
      = some (linkFrame, 0x00000209#32) := by decide
/-- P1. -/
theorem test_bufRead : answered (exec (.bufRead 0x02#8) (loaded excfg linkFrame)) = some ⟨true, 0#4, 0x3D#32⟩ := by decide
theorem test_bufRead_past_content :
    answered (exec (.bufRead 0x04#8) (loaded excfg linkFrame)) = some ⟨false, 8#4, 0#32⟩ := by decide
theorem test_crcInit :
    ((reached (exec .crcInit { State.reset with crc := 0xB03D#16 })).map (·.crc)) = some 0xFFFF#16 := by decide
/-- V16, V17. -/
theorem test_crcUpdate :
    answered (exec (.crcUpdate 0x50#8) State.reset) = some ⟨true, 0#4, 0x7CBF#32⟩ := by decide
/-- V18. -/
theorem test_crcCompute :
    ((reached (exec .crcCompute (loaded excfg [0x50#8, 0x00#8]))).map fun t => (t.crc, t.st.word))
      = some (0xB03D#16, 0x00000610#32) := by decide +kernel
/-- V20: CRC is untouched. -/
theorem test_crcVerify_command :
    ((reached (exec .crcVerify (loaded excfg linkFrame))).map fun t => (t.crc, t.rsps))
      = some (0xFFFF#16, [⟨true, 0#4, 1#32⟩]) := by decide +kernel
/-- V21. -/
theorem test_crcVerify_mismatch :
    answered (exec .crcVerify (loaded excfg [0x50#8, 0x04#8, 0x3D#8, 0xB0#8])) = some ⟨true, 0#4, 0#32⟩ := by decide +kernel
/-- V32. -/
theorem test_frmEncode :
    ((reached (exec .frmEncode (loaded excfg [0x50#8, 0x04#8, 0x00#8]))).map (·.content))
      = some [0x50#8, 0x04#8, 0x00#8, 0x73#8, 0x11#8] := by decide +kernel
/-- V35: broadcast with a value-reading command. -/
theorem test_frmEncode_broadcast :
    ((reached (exec .frmEncode (loaded excfg [0x00#8, 0x04#8, 0x00#8]))).map fun t => (t.len, t.st.word))
      = some (3, 0x00000807#32) := by decide
/-- V36. -/
theorem test_frmDecode :
    ((reached (exec (.frmDecode 0x05#8) (loaded excfg energyFrame))).map fun t => (t.resp, t.st.word))
      = some (⟨0x50#8, 0x00#8, 15⟩, 0x00000930#32) := by decide +kernel
/-- V41: the checksum before the NAK. -/
theorem test_frmDecode_checksum_before_nak :
    ((reached (exec (.frmDecode 0x05#8) (loaded excfg [0x50#8, 0xF5#8, 0xFD#8, 0xF6#8]))).map fun t =>
      (t.nakc, t.st.word)) = some (0x00#8, 0x00000902#32) := by decide +kernel
/-- V45. -/
theorem test_valDecode :
    ((reached (exec (.valDecode 0x04#8) (holding excfg clockFrame))).map fun t =>
      (t.st.word, t.val.cnt, t.val.raw.toList.take 7, t.val.qty[5]))
      = some (0x00000A70#32, 6#5, [59#32, 34#32, 12#32, 10#32, 11#32, 26#32, 0#32], 0x15#8) := by decide
/-- V43: the response stays, the values are 0. -/
theorem test_valDecode_bad_digit :
    ((reached (exec (.valDecode 0x04#8) (holding excfg
      [0x50#8, 0x00#8, 0x5A#8, 0x34#8, 0x12#8, 0x10#8, 0x11#8, 0x26#8, 0x71#8, 0x3E#8]))).map fun t =>
      (t.st.word, t.val, t.resp.addr)) = some (0x00000A25#32, .zero, 0x50#8) := by decide
/-- V50: the views of the greatest raw. -/
theorem test_regRead_views :
    viewInt 0xFFFFFFFF#32 100#32 = 0x028F5C28#32 ∧ viewFrac 0xFFFFFFFF#32 100#32 = 0x5F#32 := by decide
/-- V27, V29. -/
theorem test_regRead :
    answered (exec (.regRead 0x01#8) State.reset) = some ⟨true, 0#4, 0xFFFF#32⟩
      ∧ answered (exec (.regRead 0x09#8) State.reset) = some ⟨false, 8#4, 0#32⟩ := by decide
/-- V28. -/
theorem test_rst :
    ((reached (step (presenting (holding excfg clockFrame) 0xF000#16))).map fun t => (t.len, t.st.word, t.resp))
      = some (0, 0x00000F10#32, .zero) := by decide
/-- V29: an illegal word is recorded, but not under the opcode of BUF.READ. -/
theorem test_illegal :
    ((reached (step (presenting State.reset 0x2150#16))).map fun t => (t.len, t.st.word)) = some (0, 0x00000208#32)
      ∧ ((reached (step (presenting State.reset 0x3100#16))).map fun t => (t.st.word, t.rsps))
        = some (0#32, [⟨false, 8#4, 0#32⟩]) := by decide
theorem test_hardware_reset :
    ((reached (step { holding excfg clockFrame with issue := [.hardwareReset] })).map fun t => (t.len, t.st.word, t.rsps))
      = some (0, 0#32, []) := by decide
/-- R188: the session is Closed, the verified bytes and the registers stay, the old host's word is gone. -/
theorem test_host_restart :
    ((reached (step { acked (.reopening (clockPass 1)) with
        issue := [.hostRestart, .command 0x1000#16, .hardwareReset] })).map fun t =>
      (t.agent.session.phase, t.agent.phase, t.content, t.st.word, t.issue))
      = some (.closed, .idle, linkFrame, 0x00000930#32, [.hardwareReset]) := by decide
/-- R52, R176, R188: a restart between the write and the end of its read; the read ends with nothing written, whatever
the next call. -/
theorem test_restart_in_flight :
    let asked := { (hostAt .receiving .exchange .opened (clockPass 1) []).agent with
      calls := [.openChannel 0x50#8 []], inbox := [⟨linkFrame, 0⟩] }
    let cut := (reached (step { State.reset with issue := [.hostRestart], agent := asked })).getD .reset
    (cut.agent.session.phase, cut.agent.phase) = (.closed, .draining)
      ∧ ((reached (step cut)).map fun t => (t.agent.phase, t.agent.inbox, t.agent.writes, t.agent.results))
        = some (.idle, [], asked.writes, []) := by decide
theorem test_withFetchWord :
    (reached (step (State.reset.withFetchWord 16 0x5050))).map (·.crc) = some 0x7CBF#16 := by decide

/-! ## The host, move by move -/

/-- H1: no command, no write, ChannelNotOpen. -/
theorem test_execute_closed :
    ((reached (step { State.reset with agent := { Agent.initial with calls := [.execute 0x04#8 [0x00#8]] } })).map fun t =>
      (t.agent.results, t.issue, t.agent.writes)) = some ([.failed .channelNotOpen], [], []) := by decide
/-- H3: the request's commands, `1000 2050 2004 2000 8000`. -/
theorem test_execute_open :
    ((reached (step { hostAt .idle .exchange .opened .empty [] with
        agent := { (hostAt .idle .exchange .opened .empty []).agent with calls := [.execute 0x04#8 [0x00#8]] } })).map
      (·.issue)) = some [.command 0x1000#16, .command 0x2050#16, .command 0x2004#16, .command 0x2000#16,
        .command 0x8000#16] := by decide
/-- H3b: a corrupt last answer. -/
theorem test_corrupt_response :
    ((reached (step (hostAt .decoding .exchange .opened (clockPass 3) [⟨false, 2#4, 0#32⟩]))).map (·.agent.results))
      = some [.failed .corruptResponse] := by decide
/-- H6: another NAK is a rejection, the session stays open. -/
theorem test_rejected :
    ((reached (step (hostAt .decoding .exchange .opened (clockPass 1) [⟨false, 3#4, 1#32⟩]))).map fun t =>
      (t.agent.results, t.agent.session.phase)) = some ([.failed (.rejected 0x01#8)], .opened) := by decide
/-- H2b: a NAK to the handshake. -/
theorem test_open_rejected :
    ((reached (step (hostAt .decoding .handshake .opening (clockPass 1) [⟨false, 3#4, 1#32⟩]))).map fun t =>
      (t.agent.results, t.agent.session.phase)) = some ([.failed .openRejected], .closed) := by decide

/-- R162: a silent handshake ends in OpenTimeout after its last attempt. -/
theorem test_open_timeout :
    ((reached (step (hostAt .receiving .handshake .opening (clockPass 3) []))).map fun t =>
      (t.agent.results, t.agent.session.phase, t.issue)) = some ([.failed .openTimeout], .closed, []) := by decide

/-! ## Witnesses: states and operands that meet the hypotheses of each statement together -/

theorem next_of_reached {o : Host.Outcome State Fault Refusal} (p : State → Bool)
    (h : (reached o).map p = some true) : ∃ t, o = .next t ∧ p t = true := by
  cases o with
  | next t => exact ⟨t, rfl, by simpa [reached] using h⟩
  | fault f => simp [reached] at h
  | refused r => simp [reached] at h

theorem next_exists {o : Host.Outcome State Fault Refusal} (h : (reached o).isSome = true) : ∃ t, o = .next t := by
  cases o with
  | next t => exact ⟨t, rfl⟩
  | fault f => simp [reached] at h
  | refused r => simp [reached] at h

/-- A block that holds a verified response and its Measurement (end of P2). -/
def measured : State :=
  { holding excfg clockFrame with
    st := ⟨0#4, true, true, true, 0xA#4⟩
    val := Measurement.regs ⟨.datetime, [⟨59#32, 1#32, 0x10#8⟩, ⟨34#32, 1#32, 0x11#8⟩, ⟨12#32, 1#32, 0x12#8⟩,
      ⟨10#32, 1#32, 0x13#8⟩, ⟨11#32, 1#32, 0x14#8⟩, ⟨26#32, 1#32, 0x15#8⟩]⟩ }

theorem witness_HoldsVerified : measured.HoldsVerified where
  verified := by decide +kernel
  length := by decide
  plen := by decide
  addr := by decide
  stat := by decide
  notNak := by decide
  expected := ⟨0x04#8, ⟨1, 6, true, some .datetime⟩, by decide, by decide⟩

theorem witness_Measured : measured.val.Measured where
  kind := by decide
  some := by decide
  bound := by decide
  scaled := by decide
  unused := by decide

theorem witness_Inv : measured.Inv where
  config := by decide
  memCanonical := by decide
  memInRange := by decide
  lenInRange := by decide
  errNamed := by decide
  okIffNoErr := by decide
  respWithheld := by decide
  respHeld := fun _ => witness_HoldsVerified
  valWithheld := by decide
  valHeld := fun _ => witness_Measured

/-- The invariant does not look at the port. -/
theorem presenting_inv {s : State} (h : s.Inv) (w : Half) : (presenting s w).Inv where
  config := h.config
  memCanonical := h.memCanonical
  memInRange := h.memInRange
  lenInRange := h.lenInRange
  errNamed := h.errNamed
  okIffNoErr := h.okIffNoErr
  respWithheld := h.respWithheld
  respHeld := fun hv =>
    { verified := (h.respHeld hv).verified, length := (h.respHeld hv).length, plen := (h.respHeld hv).plen
      addr := (h.respHeld hv).addr, stat := (h.respHeld hv).stat, notNak := (h.respHeld hv).notNak
      expected := (h.respHeld hv).expected }
  valWithheld := h.valWithheld
  valHeld := h.valHeld

theorem witness_OpcodeMapWords : ∀ i : Instr, encode i ≠ 0x0000#16 := by
  intro i
  cases i with
  | bufPush b | bufRead b | crcUpdate b | frmDecode b | valDecode b | regRead b => revert b; decide
  | bufClr | crcInit | crcCompute | crcVerify | frmEncode | rst => decide

theorem witness_DecodeEncodeRoundTrip : (Instr.bufPush 0xAA#8).wf = true := by decide

theorem witness_MalformedWordIsIllegalCommand :
    (fieldsOf 0x2150#16).wf = false ∧ (fieldsOf 0x3100#16).wf = false ∧ (fieldsOf 0xE000#16).wf = false
      ∧ (presenting measured 0x2150#16).cfg.valid = true
      ∧ (presenting measured 0x2150#16).issue = .command 0x2150#16 :: []
      ∧ (fieldsOf 0x1000#16).wf = true ∧ (fieldsOf 0xB0FF#16).wf = true := by decide

theorem witness_StepRunsPresentedCommand :
    (presenting measured 0xA004#16).cfg.valid = true
      ∧ (presenting measured 0xA004#16).issue = .command 0xA004#16 :: []
      ∧ decode 0xA004#16 = .ok (.valDecode 0x04#8) := by decide

theorem witness_ConfigurationIsFixedAndLegal :
    (State.resetWith { excfg with polyR := 0#16 }).cfg.valid = false
      ∧ ∃ t, step (presenting measured 0x5050#16) = .next t := ⟨by decide, next_exists (by decide)⟩

theorem witness_ConfigurationConstraints :
    excfg.valid = true ∧ excfg.schema 0x04#8 = some ⟨1, 6, true, some .datetime⟩
      ∧ (Schema.layout ⟨1, 6, true, some .datetime⟩) = some .datetime ∧ tiny.valid = true ∧ tiny.frameMax = 4
      ∧ tiny.schema 0x00#8 = some ⟨0, 0, false, none⟩ := by decide

theorem witness_TwoResetsDifferInStatusAlone :
    ({ measured with issue := [.hardwareReset] } : State).cfg.valid = true
      ∧ ({ measured with issue := [.hardwareReset] } : State).issue = .hardwareReset :: [] := by decide

/-- The last free byte and the full buffer. -/
theorem witness_BufPushAppendsOneByte :
    (loaded tiny linkFrame).mem.wf ∧ (loaded tiny linkFrame).len = (loaded tiny linkFrame).cfg.frameMax
      ∧ (loaded tiny [0x50#8, 0x00#8, 0x3D#8]).mem.wf
      ∧ (loaded tiny [0x50#8, 0x00#8, 0x3D#8]).len < (loaded tiny [0x50#8, 0x00#8, 0x3D#8]).cfg.frameMax := by decide

theorem witness_BufReadChangesNothing :
    (presenting measured 0x3100#16).cfg.valid = true
      ∧ (presenting measured 0x3100#16).issue = .command 0x3100#16 :: []
      ∧ (fieldsOf 0x3100#16).op = 0x3#4 ∧ (fieldsOf 0x3100#16).rsv ≠ 0#4 := by decide

theorem witness_RegReadSelectors :
    measured.val.div[(0 : Fin 16)] ≠ 0#32 ∧ measured.val.div[(15 : Fin 16)] = 0#32
      ∧ (0x09 ≤ (0x09#8).toNat ∧ (0x09#8).toNat ≤ 0x0F) ∧ (0x09 ≤ (0x0F#8).toNat ∧ (0x0F#8).toNat ≤ 0x0F)
      ∧ 0x60 ≤ (0x60#8).toNat ∧ 0x60 ≤ (0xFF#8).toNat
      ∧ (presenting measured 0xB100#16).cfg.valid = true
      ∧ (presenting measured 0xB100#16).issue = .command 0xB100#16 :: []
      ∧ (fieldsOf 0xB100#16).op = 0xB#4 ∧ (fieldsOf 0xB100#16).rsv ≠ 0#4 := by decide

/-- The reset state for the clause of the withheld response. -/
theorem witness_RegReadSelectors_withheld : State.reset.Inv ∧ State.reset.st.rValid = false :=
  ⟨⟨by decide, by decide, by decide, by decide, by decide, by decide, by decide,
    fun h => absurd h (by decide), by decide, fun h => absurd h (by decide)⟩, by decide⟩

/-- One witness for each of the four clauses. -/
theorem witness_RecordedCommands :
    (∃ t, step (presenting measured 0x3000#16) = .next t) ∧ (fieldsOf 0x3000#16).op = 0x3#4
      ∧ (∃ t, step (presenting measured 0x2150#16) = .next t) ∧ (fieldsOf 0x2150#16).op = 0x2#4
      ∧ (∃ t, step (presenting measured 0x1000#16) = .next t ∧ decide (t.st.rValid ≠ measured.st.rValid) = true)
      ∧ (∃ t, step (presenting (holding excfg clockFrame) 0xA004#16) = .next t
          ∧ decide (t.st.vValid ≠ (holding excfg clockFrame).st.vValid) = true) :=
  ⟨next_exists (by decide), by decide, next_exists (by decide), by decide,
    next_of_reached _ (by decide), next_of_reached _ (by decide)⟩

/-- Every command answers a next state from a state with a canonical memory. -/
theorem witness_BufferBytesFrame :
    measured.mem.wf ∧ ∀ i ∈ [Instr.bufClr, .bufPush 0x01#8, .bufRead 0x00#8, .crcInit, .crcUpdate 0x50#8, .crcCompute,
      .crcVerify, .frmEncode, .frmDecode 0x04#8, .valDecode 0x04#8, .regRead 0x00#8, .rst],
      (reached (exec i measured)).isSome = true := by decide +kernel

theorem witness_CrcBitStepByBits : 0 < 16 ∧ 15 < 16 := by decide

theorem witness_VerifyComparesTrailingChecksum :
    ([] : List Byte).length < 2 ∧ [0x12#8].length < 2 ∧ crcVerify 0xA001#16 ([0x50#8, 0x00#8] ++ [0x3D#8, 0xB0#8]) = true := by
  decide +kernel

theorem witness_CrcInitSetsAllOnes :
    (presenting measured 0x4001#16).cfg.valid = true
      ∧ (presenting measured 0x4001#16).issue = .command 0x4001#16 :: [] ∧ (fieldsOf 0x4001#16).op = 0x4#4
      ∧ (fieldsOf 0x4001#16).arg ≠ 0#8 ∧ (fieldsOf 0x4100#16).op = 0x4#4 ∧ (fieldsOf 0x4100#16).rsv ≠ 0#4 := by decide

theorem witness_CrcUpdateFoldsOneByte :
    (presenting measured 0x5F50#16).cfg.valid = true
      ∧ (presenting measured 0x5F50#16).issue = .command 0x5F50#16 :: []
      ∧ (fieldsOf 0x5F50#16).op = 0x5#4 ∧ (fieldsOf 0x5F50#16).rsv ≠ 0#4 := by decide

theorem witness_ZeroResidue :
    crcVerify 0xA001#16 linkFrame = true ∧ (0xA001#16).getLsbD 15 = true ∧ 2 ≤ [0xFF#8, 0xFF#8].length
      ∧ crc16 0xA001#16 [0xFF#8, 0xFF#8] = 0#16 := by decide +kernel

/-- A bit of the payload, and the last bit of the checksum. -/
theorem witness_DiffersInOneBit :
    DiffersInOneBit linkFrame [0x50#8, 0x04#8, 0x3D#8, 0xB0#8]
      ∧ DiffersInOneBit linkFrame [0x50#8, 0x00#8, 0x3D#8, 0x30#8] :=
  ⟨⟨1, 2, by decide⟩, ⟨3, 7, by decide⟩⟩

theorem witness_SingleBitErrorsAreCaught :
    (0xA001#16 ≠ 0#16) ∧ crcVerify 0xA001#16 linkFrame = true ∧ (0x0001#16 ≠ 0#16)
      ∧ crcVerify 0x0001#16 [0x50#8, 0x00#8, 0x00#8, 0x00#8] = true := by decide +kernel

/-- As many bytes as the smallest buffer takes. -/
theorem witness_StreamAndBlockAgree :
    (loaded tiny linkFrame).cfg.valid = true ∧ (loaded tiny linkFrame).mem.wf
      ∧ linkFrame.length ≤ (loaded tiny linkFrame).cfg.frameMax := by decide

theorem witness_WritersOfCrc :
    ∃ t, step (presenting State.reset 0x5050#16) = .next t ∧ decide (t.crc ≠ State.reset.crc) = true :=
  next_of_reached _ (by decide)

/-- A good request, a broadcast that is allowed, a broadcast that is not, and a content of one byte. -/
theorem witness_FrmEncodeAppendsTheChecksum :
    (loaded excfg [0x50#8, 0x04#8, 0x00#8]).cfg.valid = true ∧ (loaded excfg [0x50#8, 0x04#8, 0x00#8]).mem.wf
      ∧ 2 ≤ (loaded excfg [0x50#8, 0x04#8, 0x00#8]).len
      ∧ (excfg.schema 0x04#8 = some ⟨1, 6, true, some .datetime⟩
          ∧ (loaded excfg [0x50#8, 0x04#8, 0x00#8]).len - 2 = 1)
      ∧ ¬(0x50#8 = 0#8 ∧ (Schema.valueRead ⟨1, 6, true, some .datetime⟩) = true)
      ∧ (excfg.schema 0x00#8 = some ⟨0, 0, false, none⟩ ∧ (loaded excfg [0x00#8, 0x00#8]).len - 2 = 0
          ∧ (Schema.valueRead ⟨0, 0, false, none⟩) = false)
      ∧ (0x00#8 = 0#8 ∧ (Schema.valueRead ⟨1, 6, true, some .datetime⟩) = true)
      ∧ (loaded excfg [0x50#8]).mem.wf ∧ ¬(2 ≤ (loaded excfg [0x50#8]).len) := by decide

theorem witness_FrameDecodeCheckOrder :
    [0x50#8, 0x00#8, 0x3D#8].length < 4 ∧ 4 ≤ linkFrame.length
      ∧ crcVerify excfg.polyR [0x50#8, 0xF5#8, 0xFD#8, 0xF6#8] = false
      ∧ (crcVerify excfg.polyR [0x50#8, 0xF5#8, 0xFD#8, 0xF7#8] = true ∧ excfg.nakCode 0xF5#8 = some 0x05#8)
      ∧ crcVerify excfg.polyR linkFrame = true ∧ excfg.nakCode (linkFrame.getD 1 0#8) = none
      ∧ excfg.schema 0x77#8 = none
      ∧ (excfg.schema 0x04#8 = some ⟨1, 6, true, some .datetime⟩ ∧ linkFrame.length - 4 ≠ 6)
      ∧ (excfg.schema 0x00#8 = some ⟨0, 0, false, none⟩ ∧ linkFrame.length - 4 = 0) := by decide +kernel

theorem witness_FrmDecodeSetsTheResponse :
    frameDecode excfg (loaded excfg [0x50#8, 0xF5#8, 0xFD#8, 0xF7#8]).content 0x05#8 = .error (.nak 0x05#8)
      ∧ frameDecode excfg (loaded excfg []).content 0x05#8 = .error .truncated
      ∧ frameDecode excfg (loaded excfg linkFrame).content 0x00#8 = .ok ⟨0x50#8, 0x00#8, []⟩ := by decide +kernel

theorem witness_FrameRoundTrip :
    frameEncode excfg 0x50#8 0x00#8 [] = .ok linkFrame
      ∧ frameEncode excfg 0x50#8 0x04#8 [0x00#8] = .ok [0x50#8, 0x04#8, 0x00#8, 0x73#8, 0x11#8] := by decide +kernel

theorem witness_FrameSingleBitError :
    excfg.polyR ≠ 0#16 ∧ frameDecode excfg linkFrame 0x77#8 ≠ .error .truncated
      ∧ frameDecode excfg linkFrame 0x77#8 ≠ .error .checksumMismatch := by decide +kernel

/-- An error without information, and a NAK. -/
theorem witness_FailedDecodeExposesNoResponse :
    frameDecode measured.cfg measured.content 0x05#8 = .error .badLength
      ∧ frameDecode excfg (loaded excfg [0x50#8, 0xF5#8, 0xFD#8, 0xF7#8]).content 0x05#8 = .error (.nak 0x05#8) := by
  decide +kernel

theorem witness_WritersOfNakc :
    frameDecode excfg (loaded excfg [0x50#8, 0xF5#8, 0xFD#8, 0xF7#8]).content 0x05#8 = .error (.nak 0x05#8)
      ∧ (∀ k, frameDecode excfg (loaded excfg []).content 0x05#8 ≠ .error (.nak k))
      ∧ ∃ t, step (presenting (loaded excfg [0x50#8, 0xF5#8, 0xFD#8, 0xF7#8]) 0x9005#16) = .next t
          ∧ decide (t.nakc ≠ 0#8) = true :=
  ⟨by decide +kernel, by decide, next_of_reached _ (by decide +kernel)⟩

/-- Each clause: a command that drops the response, FRM.DECODE both ways, one that leaves it. -/
theorem witness_ResponseGate :
    (∃ t, exec .bufClr measured = .next t)
      ∧ (∃ t, exec (.frmDecode 0x04#8) measured = .next t ∧ t.st.rValid = true)
      ∧ (∃ t, exec (.frmDecode 0x05#8) measured = .next t ∧ (!t.st.rValid) = true)
      ∧ (∃ t, exec (.valDecode 0x04#8) measured = .next t) :=
  ⟨next_exists (by decide), next_of_reached _ (by decide +kernel), next_of_reached _ (by decide +kernel),
    next_exists (by decide)⟩

theorem witness_ValDecodeStoresTheMeasurement :
    State.reset.cfg.valid = true ∧ State.reset.st.rValid = false
      ∧ measured.cfg.valid = true ∧ measured.st.rValid = true ∧ 2 + measured.resp.plen ≤ measured.len
      ∧ valueDecode measured.cfg 0x05#8 ((measured.content.drop 2).take measured.resp.plen) = .error .badLength
      ∧ valueDecode measured.cfg 0x04#8 ((measured.content.drop 2).take measured.resp.plen)
        = .ok ⟨.datetime, [⟨59#32, 1#32, 0x10#8⟩, ⟨34#32, 1#32, 0x11#8⟩, ⟨12#32, 1#32, 0x12#8⟩, ⟨10#32, 1#32, 0x13#8⟩,
            ⟨11#32, 1#32, 0x14#8⟩, ⟨26#32, 1#32, 0x15#8⟩]⟩ := by decide

theorem witness_WritersOfTheValueRegisters :
    ∃ t, step (presenting measured 0xF000#16) = .next t ∧ decide (t.st.vValid ≠ measured.st.vValid) = true :=
  next_of_reached _ (by decide)

/-- EXCFG's two ENERGY layouts: a wrong length, a bad digit in the last field, and BCD and BIN fields that are good. -/
theorem witness_EnergyTotals :
    excfg.layoutOf 0x05#8 = some (.energy 5 ⟨3, .bcd, permBE 3, 100, 0x01#8⟩)
      ∧ (List.replicate 16 0#8).length ≠ 5 * 3 ∧ (List.replicate 14 0#8 ++ [0x0A#8]).length = 5 * 3
      ∧ (4 < 5 ∧ fieldOk ⟨3, .bcd, permBE 3, 100, 0x01#8⟩
          (((List.replicate 14 0#8 ++ [0x0A#8]).drop (4 * 3)).take 3) = false)
      ∧ (List.replicate 15 0x99#8).length = 5 * 3
      ∧ (∀ j, j < 5 → fieldOk ⟨3, .bcd, permBE 3, 100, 0x01#8⟩ (((List.replicate 15 0x99#8).drop (j * 3)).take 3) = true)
      ∧ excfg.layoutOf 0x15#8 = some (.energy 4 ⟨4, .bin, permLE 4, 100, 0x01#8⟩) := by decide

theorem witness_InstantaneousQuantities :
    bcdInstant.layoutOf 0x30#8 = some (.instant [⟨1, .bcd, [0], 10, 0x02#8⟩])
      ∧ ([] : List Byte).length ≠ 1 ∧ [0x5A#8].length = 1
      ∧ fieldOk ⟨1, .bcd, [0], 10, 0x02#8⟩ (([0x5A#8].drop 0).take 1) = false
      ∧ fieldOk ⟨1, .bcd, [0], 10, 0x02#8⟩ (([0x99#8].drop 0).take 1) = true := by decide

theorem witness_DateAndTime :
    excfg.layoutOf 0x04#8 = some .datetime ∧ ([] : List Byte).length ≠ 6
      ∧ [0x5A#8, 0x34#8, 0x12#8, 0x10#8, 0x11#8, 0x26#8].length = 6
      ∧ (∃ b ∈ [0x5A#8, 0x34#8, 0x12#8, 0x10#8, 0x11#8, 0x26#8], bcdOk b = false)
      ∧ (∀ b ∈ [0x99#8, 0x99#8, 0x99#8, 0x99#8, 0x99#8, 0x99#8], bcdOk b = true) := by decide

theorem witness_ValueDecodeErrors :
    excfg.schema 0x77#8 = none
      ∧ (excfg.schema 0x00#8 = some ⟨0, 0, false, none⟩ ∧ (Schema.layout ⟨0, 0, false, none⟩) = none)
      ∧ (excfg.schema 0x04#8 = some ⟨1, 6, true, some .datetime⟩
          ∧ (Schema.layout ⟨1, 6, true, some .datetime⟩) = some .datetime ∧ ([] : List Byte).length ≠ Layout.datetime.byteLen)
      ∧ valueDecode excfg 0x77#8 [] = .error .unknownCommand := by decide

theorem witness_PackedBcd : bcdOk 0x99#8 = true ∧ bcdOk 0x00#8 = true := by decide

theorem witness_FieldLegal : FieldLegal ⟨4, .bin, permLE 4, 100, 0x01#8⟩ ∧ FieldLegal ⟨4, .bcd, permBE 4, 1, 0#8⟩ :=
  ⟨⟨by decide, by decide, by decide, by decide, by decide⟩, ⟨by decide, by decide, by decide, by decide, by decide⟩⟩

/-- V59, V60: the greatest BIN and the greatest BCD field; a bad BCD field; a byte order that is not its own inverse. -/
theorem witness_FieldRawDigits :
    fieldOk ⟨1, .bcd, permBE 1, 1, 0#8⟩ [0x5A#8] = false ∧ FieldDesc.valid ⟨3, .bin, [1, 2, 0], 1, 0#8⟩ = true
      ∧ (List.replicate 4 0xFF#8).length = 4 ∧ fieldOk ⟨4, .bin, permLE 4, 100, 0x01#8⟩ (List.replicate 4 0xFF#8) = true
      ∧ fieldOk ⟨4, .bcd, permBE 4, 1, 0#8⟩ (List.replicate 4 0x99#8) = true := by decide

theorem witness_MeasurementBounds :
    excfg.valid = true ∧ valueDecode excfg 0x04#8 (List.replicate 6 0x99#8)
      = .ok ⟨.datetime, [⟨99#32, 1#32, 0x10#8⟩, ⟨99#32, 1#32, 0x11#8⟩, ⟨99#32, 1#32, 0x12#8⟩, ⟨99#32, 1#32, 0x13#8⟩,
          ⟨99#32, 1#32, 0x14#8⟩, ⟨99#32, 1#32, 0x15#8⟩]⟩ := by decide

theorem witness_WhichCommandRaisesWhat :
    ∀ i ∈ [Instr.bufClr, .bufPush 0x01#8, .bufRead 0x00#8, .crcInit, .crcUpdate 0x50#8, .crcCompute,
      .crcVerify, .frmEncode, .frmDecode 0x04#8, .valDecode 0x04#8, .regRead 0x00#8, .rst],
      (reached (exec i State.reset)).isSome = true := by decide +kernel

/-- A success, an error without information, and a NAK. -/
theorem witness_OneResponsePerCommand :
    (∃ t, step (presenting State.reset 0x4000#16) = .next t)
      ∧ (∃ t, step (presenting State.reset 0x0000#16) = .next t
          ∧ decide (t.rsps.head? = some ⟨false, 8#4, 0#32⟩) = true)
      ∧ (∃ t, step (presenting (loaded excfg [0x50#8, 0xF5#8, 0xFD#8, 0xF7#8]) 0x9005#16) = .next t
          ∧ decide (t.rsps.head? = some ⟨false, 3#4, 5#32⟩) = true) :=
  ⟨next_exists (by decide), next_of_reached _ (by decide), next_of_reached _ (by decide +kernel)⟩

theorem witness_FailingCommandIsPrecise :
    ∃ t, exec (.bufPush 0x01#8) (loaded tiny linkFrame) = .next t
      ∧ decide (t.rsps = [⟨false, 9#4, 0#32⟩]) = true := next_of_reached _ (by decide)

theorem witness_ResetMeetsTheInvariants : excfg.valid = true ∧ tiny.valid = true := by decide

theorem witness_StepKeepsTheInvariant :
    (presenting measured 0x1000#16).Inv ∧ ∃ t, step (presenting measured 0x1000#16) = .next t :=
  ⟨presenting_inv witness_Inv _, next_exists (by decide)⟩

theorem witness_EveryStepAnswersNext : (presenting measured 0xA004#16).Inv ∧ measured.cfg.hostValid = true :=
  ⟨presenting_inv witness_Inv _, by decide⟩

/-- The host in the middle of an exchange, and reopening its session. -/
theorem witness_HostInv :
    (hostAt .sending .exchange .opened (clockPass 2) []).HostInv ∧ (acked (.reopening (clockPass 1))).HostInv where
  left :=
    { budget := by decide, fresh := by decide, left := by decide, made := by decide, settled := by decide
      exchanging := by decide, opening := by decide, measuring := by decide
      awaits := fun h => absurd h (by decide), once := fun _ h => by cases h }
  right :=
    { budget := by decide, fresh := by decide, left := by decide, made := by decide, settled := by decide
      exchanging := by decide, opening := by decide, measuring := by decide
      awaits := fun _ => .inr ⟨by decide, ⟨true, 0#4, 0#32⟩, [], by decide⟩
      once := fun _ h => by cases h; rfl }

/-- The answer's FRM.DECODE still at the port, behind another word. -/
theorem witness_AwaitsDecode :
    ({ acked .handshake with issue := [.command 0x20B0#16, .command 0x9004#16] } : State).AwaitsDecode :=
  .inl ⟨[.command 0x20B0#16], by decide⟩

theorem witness_StepKeepsTheHostInvariant :
    ∃ t, step (hostAt .sending .exchange .opened (clockPass 2) []) = .next t := next_exists (by decide)

theorem witness_HostMovesTouchNoRegister :
    (hostAt .sending .exchange .opened (clockPass 2) []).issue = []
      ∧ (∃ t, step (hostAt .sending .exchange .opened (clockPass 2) []) = .next t)
      ∧ ({ measured with issue := [.hostRestart] } : State).cfg.valid = true
      ∧ ({ measured with issue := [.hostRestart] } : State).issue = .hostRestart :: [] :=
  ⟨rfl, next_exists (by decide), by decide, by decide⟩

theorem witness_ClosedSessionFailsAtOnce :
    let s := { State.reset with agent := { Agent.initial with calls := [.execute 0x04#8 [0x00#8]] } }
    s.cfg.valid = true ∧ s.cfg.hostValid = true ∧ s.issue = [] ∧ s.agent.phase = .idle
      ∧ s.agent.session.isOpen = false ∧ s.agent.calls = .execute 0x04#8 [0x00#8] :: [] := by decide

theorem witness_SilentTransportTimesOut :
    let s := hostAt .sending .exchange .opened (clockPass 0) []
    s.cfg.valid = true ∧ s.cfg.hostValid = true ∧ s.issue = [] ∧ s.agent.phase = .sending ∧ s.agent.task = .exchange
      ∧ s.agent.cur.attempts = 0 ∧ (∀ a ∈ s.agent.inbox, a.bytes = []) := by decide

/-- A write, a read that takes an answer, a cut-off read that ends, a restart that cuts a read off, and a word executed
while a read is in flight. -/
theorem witness_HalfDuplexExchange :
    (∃ t, step (hostAt .sending .exchange .opened (clockPass 0) []) = .next t
        ∧ decide (t.agent.writes ≠ []) = true)
      ∧ (∃ t, step { hostAt .receiving .exchange .opened (clockPass 1) [] with
            agent := { (hostAt .receiving .exchange .opened (clockPass 1) []).agent with inbox := [⟨linkFrame, 1⟩] } } = .next t
          ∧ decide (t.agent.inbox ≠ [⟨linkFrame, 1⟩]) = true)
      ∧ (∃ t, step (hostAt .draining .exchange .closed .empty []) = .next t ∧ decide (t.agent.phase = .idle) = true)
      ∧ (∃ t, step { hostAt .receiving .exchange .opened (clockPass 1) [] with issue := [.hostRestart] } = .next t
          ∧ decide (t.agent.phase ≠ .receiving) = true)
      ∧ (∃ t, step (presenting (hostAt .receiving .exchange .opened (clockPass 1) []) 0x1000#16) = .next t) :=
  ⟨next_of_reached _ (by decide), next_of_reached _ (by decide), next_of_reached _ (by decide),
    next_of_reached _ (by decide), next_exists (by decide)⟩

/-- The acknowledged handshake's block holds what it verified. -/
theorem witness_acked_HoldsVerified : (acked (.reopening (clockPass 1))).HoldsVerified where
  verified := by decide +kernel
  length := by decide
  plen := by decide
  addr := by decide
  stat := by decide
  notNak := by decide
  expected := ⟨0x01#8, ⟨7, 0, false, none⟩, by decide, by decide⟩

theorem witness_acked_Inv : (acked (.reopening (clockPass 1))).Inv where
  config := by decide
  memCanonical := by decide
  memInRange := by decide
  lenInRange := by decide
  errNamed := by decide
  okIffNoErr := by decide
  respWithheld := by decide
  respHeld := fun _ => witness_acked_HoldsVerified
  valWithheld := by decide
  valHeld := fun h => absurd h (by decide)

/-- The same state as `witness_HostInv` and `witness_acked_Inv`. -/
theorem witness_SessionOpensOnlyOnAck :
    (acked (.reopening (clockPass 1))).agent.session.isOpen = false
      ∧ ∃ t, step (acked (.reopening (clockPass 1))) = .next t ∧ t.agent.session.isOpen = true :=
  ⟨by decide, next_of_reached _ (by decide)⟩

/-- The closed-channel NAK before and after a reopening, another NAK; a reopening acknowledged and rejected. -/
theorem witness_NakHandling :
    let s := fun t p r => hostAt .decoding t p (clockPass 1) [r]
    excfg.valid = true ∧ excfg.hostValid = true
      ∧ (s .exchange .opened ⟨false, 3#4, 5#32⟩).issue = []
      ∧ (s .exchange .opened ⟨false, 3#4, 5#32⟩).agent.phase = .decoding
      ∧ (s .exchange .opened ⟨false, 3#4, 5#32⟩).rsps = ⟨false, 3#4, 5#32⟩ :: []
      ∧ ((5#32).setWidth 8 = excfg.nakClosed ∧ (clockPass 1).reopened = false)
      ∧ ({ clockPass 1 with reopened := true } : Exchange).reopened = true
      ∧ (1#32).setWidth 8 ≠ excfg.nakClosed
      ∧ (s (.reopening (clockPass 1)) .opening ⟨true, 0#4, 0#32⟩).agent.task = .reopening (clockPass 1)
      ∧ (s (.reopening (clockPass 1)) .opening ⟨false, 3#4, 1#32⟩).rsps = [⟨false, 3#4, 1#32⟩] := by decide

/-- The handshake: acknowledged; corrupt with an attempt left and at the last one, silent likewise; its request refused;
its call. -/
theorem witness_Handshake :
    let s := fun ph n r => hostAt ph .handshake .opening (clockPass n) r
    (∀ e ∈ [0#4, 1#4, 2#4, 3#4, 4#4, 6#4], (s .decoding 3 [⟨e == 0#4, e, 0#32⟩]).cfg.valid = true
        ∧ (s .decoding 3 [⟨e == 0#4, e, 0#32⟩]).cfg.hostValid = true ∧ (s .decoding 3 [⟨e == 0#4, e, 0#32⟩]).issue = []
        ∧ (s .decoding 3 [⟨e == 0#4, e, 0#32⟩]).agent.phase = .decoding
        ∧ (s .decoding 3 [⟨e == 0#4, e, 0#32⟩]).agent.task = .handshake)
      ∧ (s .decoding 2 []).agent.cur.attempts < excfg.retryBudget
      ∧ excfg.retryBudget ≤ (s .decoding 3 []).agent.cur.attempts
      ∧ (s .receiving 3 []).agent.phase = .receiving ∧ (s .receiving 3 []).agent.task ≠ .exchange
      ∧ (s .receiving 3 []).agent.inbox.head? = none
      ∧ (s .encoding 0 [⟨false, 7#4, 0#32⟩]).agent.phase = .encoding
      ∧ (s .encoding 0 [⟨false, 7#4, 0#32⟩]).rsps = ⟨false, 7#4, 0#32⟩ :: []
      ∧ ({ Agent.initial with calls := [.openChannel 0x50#8 [0x01#8]] } : Agent).phase = .idle := by decide

/-- Each phase of each task, with attempts left and without, for each outcome of the block and of the transport. -/
theorem witness_CallsPhaseByPhase :
    ∀ t ∈ [Task.exchange, .handshake, .reopening (clockPass 1)],
      let s := fun ph n r => hostAt ph t .opened (clockPass n) r
      excfg.valid = true ∧ excfg.hostValid = true ∧ (s .decoding 2 []).agent.task = t ∧ (s .decoding 2 []).issue = []
      ∧ (s .encoding 0 [⟨false, 7#4, 0#32⟩]).agent.phase = .encoding
      ∧ (s .encoding 0 [⟨true, 0#4, 5#32⟩]).rsps = [⟨true, 0#4, 5#32⟩]
      ∧ (excfg.schema (clockPass 0).command).isSome = true ∧ excfg.schema 0x77#8 = none
      ∧ (s .dumpLength 0 [⟨true, 0#4, 5#32⟩]).agent.phase = .dumpLength
      ∧ (s (.dumpBytes linkFrame.length) 0 (linkFrame.reverse.map fun b => ⟨true, 0#4, b.setWidth 32⟩)).rsps
        = (linkFrame.reverse.map fun b => ⟨true, 0#4, b.setWidth 32⟩) ++ []
      ∧ (s .sending 0 []).agent.phase = .sending
      ∧ (s .receiving 2 []).agent.inbox.head? = none ∧ (s .receiving 2 []).agent.cur.attempts < excfg.retryBudget
      ∧ excfg.retryBudget ≤ (s .receiving 3 []).agent.cur.attempts
      ∧ [(⟨linkFrame, 1⟩ : Answer)].head? = some ⟨linkFrame, 1⟩ ∧ linkFrame ≠ [] ∧ 0 < (clockPass 1).nExp
      ∧ (∀ e ∈ [0#4, 1#4, 2#4, 4#4, 6#4], (s .decoding 3 [⟨e == 0#4, e, 0#32⟩]).agent.phase = .decoding
          ∧ (s .valuing 1 [⟨e == 0#4, e, 0#32⟩]).agent.phase = .valuing) := by decide

/-- An `execute` is asked of an open session. -/
theorem witness_CallsPhaseByPhase_start :
    let s := { hostAt .idle .exchange .opened .empty [] with
      agent := { (hostAt .idle .exchange .opened .empty []).agent with calls := [.execute 0x04#8 [0x00#8]] } }
    s.cfg.valid = true ∧ s.cfg.hostValid = true ∧ s.issue = [] ∧ s.agent.phase = .idle
      ∧ s.agent.session.isOpen = true ∧ s.agent.calls = .execute 0x04#8 [0x00#8] :: [] := by decide

/-- The value registers hold a Measurement and the first two reads are presented; the greatest count. -/
theorem witness_CallsPhaseByPhase_read :
    let s := { measured with
      issue := presented [.regRead 0x07#8, .regRead 0x08#8]
      agent := (hostAt .readKind .exchange .opened (clockPass 1) []).agent }
    s.cfg.valid = true ∧ s.cfg.hostValid = true ∧ s.agent.task = .exchange ∧ s.agent.phase = .readKind
      ∧ s.issue = presented [.regRead 0x07#8, .regRead 0x08#8] ∧ s.val.cnt.toNat ≤ 16 ∧ (16#5).toNat ≤ 16 := by decide

/-- R22: the four numbers of V_KIND. -/
theorem witness_RegReadSelectors_kind :
    State.reset.val.kind = .none ∧ measured.val.kind = .datetime
      ∧ (Measurement.regs ⟨.energy, [⟨1#32, 1#32, 0#8⟩]⟩).kind = .energy
      ∧ (Measurement.regs ⟨.instant, [⟨1#32, 1#32, 0#8⟩]⟩).kind = .instant := by decide
theorem test_kind_codes :
    [VKind.none, .energy, .instant, .datetime].map VKind.code = [0#2, 1#2, 2#2, 3#2]
      ∧ [0#2, 1#2, 2#2, 3#2].map VKind.ofCode = [.none, .energy, .instant, .datetime] := by decide

end Sys2Proof.Tests
end

section
/-! SUPPORT. Facts about steps, commands and the configuration, and with them the statements of the family of
`10_state.md`: the invariant (R16, R18, R20, R22, R33), who writes which register, what the host leaves alone. -/

namespace Sys2Proof.Machine

/-! ### The host's moves leave the block alone (R14) -/

/-- `t` is `s` after the host has acted: commands may have been appended at the port, the host's own data may be other,
and the block is as it was. -/
def State.HostActs (s t : State) : Prop :=
  ∃ is a, t = { s with issue := s.issue ++ presented is, agent := a }

theorem State.HostActs.agent (s : State) (a : Agent) : s.HostActs { s with agent := a } :=
  ⟨[], a, by simp [presented]⟩

theorem State.HostActs.trans {s t u : State} (h : s.HostActs t) (h' : t.HostActs u) : s.HostActs u := by
  obtain ⟨is, a, rfl⟩ := h
  obtain ⟨js, b, rfl⟩ := h'
  exact ⟨is ++ js, b, by simp [presented]⟩

theorem hostActs_issueCmds (s : State) (is : List Instr) (ph : Phase) : s.HostActs (s.issueCmds is ph) :=
  ⟨is, _, rfl⟩

theorem hostActs_failPass (s : State) (f : Failure) : s.HostActs (s.failPass f) := by
  unfold State.failPass
  split <;> exact .agent s _

theorem hostActs_retryOrFail (s : State) (f : Failure) : s.HostActs (s.retryOrFail f) := by
  unfold State.retryOrFail
  split
  · exact .agent s _
  · exact hostActs_failPass s f

theorem hostActs_startPass (s : State) (t : Task) (c : Byte) (p : List Byte) : s.HostActs (s.startPass t c p) :=
  (State.HostActs.agent s _).trans (hostActs_issueCmds _ _ _)

theorem hostActs_openChannel (s : State) (t : Task) (a : Byte) (p : List Byte) : s.HostActs (s.openChannel t a p) :=
  (State.HostActs.agent s _).trans (hostActs_startPass _ _ _ _)

theorem hostActs_startCall (s : State) : s.HostActs s.startCall := by
  unfold State.startCall
  split
  · exact .agent s s.agent
  · exact (State.HostActs.agent s _).trans (hostActs_openChannel _ _ _ _)
  · split
    · exact (State.HostActs.agent s _).trans (hostActs_startPass _ _ _ _)
    · exact .agent s _

theorem hostActs_onEncoded (s : State) (r : Response) : s.HostActs (s.onEncoded r) := by
  unfold State.onEncoded
  split
  · split
    · exact (State.HostActs.agent s _).trans (hostActs_issueCmds _ _ _)
    · exact hostActs_failPass s _
  · exact hostActs_failPass s _

theorem hostActs_transportRead (s : State) : s.HostActs s.transportRead := by
  unfold State.transportRead
  have hread : s.HostActs s.afterRead := .agent s _
  split
  · exact hread.trans (hostActs_retryOrFail _ _)
  · exact hread.trans (hostActs_issueCmds _ _ _)

theorem hostActs_sessionOpened (s : State) : s.HostActs s.sessionOpened := by
  unfold State.sessionOpened
  split <;> exact .agent s _

theorem hostActs_onNak (s : State) (k : Byte) : s.HostActs (s.onNak k) := by
  unfold State.onNak
  have hclosed : s.HostActs (s.toSession .closed) := .agent s _
  split
  · exact hostActs_failPass s _
  · exact hostActs_failPass s _
  · split
    · split
      · exact hclosed.trans (hostActs_failPass _ _)
      · exact hclosed.trans (hostActs_openChannel _ _ _ _)
    · exact hostActs_failPass s _

theorem hostActs_onDecoded (s : State) (r : Response) : s.HostActs (s.onDecoded r) := by
  unfold State.onDecoded
  split
  · split
    · exact hostActs_issueCmds s _ _
    · exact hostActs_sessionOpened s
    · exact hostActs_sessionOpened s
  · split
    · exact hostActs_retryOrFail s _
    · split
      · exact hostActs_onNak s _
      · exact hostActs_failPass s _

theorem hostActs_onValued (s : State) (r : Response) : s.HostActs (s.onValued r) := by
  unfold State.onValued
  split
  · exact hostActs_issueCmds s _ _
  · exact hostActs_failPass s _

theorem hostActs_hostMove (s : State) : s.HostActs s.hostMove := by
  have hwait : s.HostActs s := .agent s s.agent
  unfold State.hostMove
  cases s.agent.phase with
  | idle => exact hostActs_startCall s
  | sending | draining => exact .agent s _
  | receiving => exact hostActs_transportRead s
  | encoding =>
    dsimp only
    split
    · exact hostActs_onEncoded s _
    · exact hwait
  | dumpLength | readKind =>
    dsimp only
    split
    · exact hostActs_issueCmds s _ _
    · exact hwait
  | dumpBytes _ | readSlots _ _ =>
    dsimp only
    split
    · exact .agent s _
    · exact hwait
  | decoding =>
    dsimp only
    split
    · exact hostActs_onDecoded s _
    · exact hwait
  | valuing =>
    dsimp only
    split
    · exact hostActs_onValued s _
    · exact hwait

theorem hostActs_of_agentTurn {s t : State} (h : agentTurn s = .next t) : s.HostActs t := by
  obtain ⟨-, rfl⟩ | ⟨-, -, rfl⟩ := agentTurn_next h
  · exact .agent t t.agent
  · exact hostActs_hostMove s

/-- A restart leaves a read in flight to be waited out, and the host idle else (log 22). -/
theorem Phase.restarted_eq (p : Phase) :
    p.restarted = if p = .receiving ∨ p = .draining then .draining else .idle := by
  cases p <;> simp [Phase.restarted, Phase.inFlight]

/-! ### What a step can be -/

/-- A step is the hardware reset, a command of R57, a malformed word, a restart of the host, or the host's turn. -/
theorem step_cases {s t : State} (h : step s = .next t) :
    (∃ es, s.issue = .hardwareReset :: es ∧ t = ({ s with issue := es } : State).resetBlock) ∨
    (∃ w es i, s.issue = .command w :: es ∧ decode w = .ok i ∧ exec i { s with issue := es } = .next t) ∨
    (∃ w es e, s.issue = .command w :: es ∧ decode w = .error e ∧
      t = ({ s with issue := es } : State).finish (opField w) (.error .illegalOp)) ∨
    (∃ es, s.issue = .hostRestart :: es ∧ t = ({ s with issue := es } : State).restartHost) ∨
    (s.issue = [] ∧ s.HostActs t) := by
  obtain ⟨-, ⟨e, es, hi, hrun⟩ | ⟨hi, hturn⟩⟩ := step_next h
  · cases e with
    | hardwareReset => cases hrun; exact .inl ⟨es, hi, rfl⟩
    | hostRestart => cases hrun; exact .inr (.inr (.inr (.inl ⟨es, hi, rfl⟩)))
    | command w =>
      simp only [runEvent, runWord] at hrun
      split at hrun
      · next i hd => exact .inr (.inl ⟨w, es, i, hi, hd, hrun⟩)
      · next e hd => cases hrun; exact .inr (.inr (.inl ⟨w, es, e, hi, hd, rfl⟩))
  · exact .inr (.inr (.inr (.inr ⟨hi, hostActs_of_agentTurn hturn⟩)))

/-- What neither the end of a command nor the host writes, a step changes only by the hardware reset or in the meaning
of a command of R57. -/
theorem step_changes_by_command {α : Type} {s t : State} (f : State → α)
    (hhost : ∀ (u : State) es a, f { u with issue := es, agent := a } = f u)
    (hfinish : ∀ (u : State) op r, f (u.finish op r) = f u) (h : step s = .next t) (hne : f t ≠ f s) :
    (∃ es, s.issue = .hardwareReset :: es) ∨
      ∃ w es i, s.issue = .command w :: es ∧ decode w = .ok i ∧ exec i { s with issue := es } = .next t := by
  obtain ⟨es, hi, -⟩ | hcmd | ⟨w, es, e, hi, -, rfl⟩ | ⟨es, hi, rfl⟩ | ⟨-, is, a, rfl⟩ := step_cases h
  · exact .inl ⟨es, hi⟩
  · exact .inr hcmd
  · exact absurd ((hfinish _ _ _).trans (hhost s es s.agent)) hne
  · exact absurd (hhost s _ _) hne
  · exact absurd (hhost s _ _) hne

/-- The same where a command word is at the port: the change is that command's. -/
theorem command_changes {α : Type} {s t : State} {w : Half} {es : List PortEvent} (f : State → α)
    (hhost : ∀ (u : State) es a, f { u with issue := es, agent := a } = f u)
    (hfinish : ∀ (u : State) op r, f (u.finish op r) = f u) (hissue : s.issue = .command w :: es)
    (h : step s = .next t) (hne : f t ≠ f s) :
    ∃ i, decode w = .ok i ∧ exec i { s with issue := es } = .next t := by
  obtain ⟨es', hi⟩ | ⟨w', es', i, hi, hd, hexec⟩ := step_changes_by_command f hhost hfinish h hne
  · rw [hissue] at hi; cases hi
  · rw [hissue] at hi; cases hi; exact ⟨i, hd, hexec⟩

/-! ### What each command writes, and how it ends -/

/-- The writers of CRC, NAKC, the response registers and the value registers among the commands (R17, R20 to R22). -/
theorem exec_writers {i : Instr} {s t : State} (h : exec i s = .next t) :
    (t.crc = s.crc ∨ i = .crcInit ∨ (∃ b, i = .crcUpdate b) ∨ i = .crcCompute ∨ i = .rst) ∧
    (t.nakc = s.nakc ∨ (∃ c, i = .frmDecode c) ∨ i = .rst) ∧
    ((t.st.rValid = s.st.rValid ∧ t.resp = s.resp) ∨
      i = .bufClr ∨ (∃ b, i = .bufPush b) ∨ i = .frmEncode ∨ (∃ c, i = .frmDecode c) ∨ i = .rst) ∧
    ((t.val = s.val ∧ t.st.vValid = s.st.vValid) ∨ (∃ c, i = .valDecode c) ∨ i = .rst) := by
  cases i with
  | bufClr | crcInit | crcUpdate _ | crcCompute | crcVerify | rst => cases h; simp
  | bufPush b => obtain ⟨-, rfl⟩ | ⟨-, rfl⟩ := execBufPush_next h <;> simp
  | bufRead a => obtain ⟨r, rfl, -⟩ := execBufRead_next h; simp
  | frmEncode => obtain rfl | ⟨-, rfl⟩ := execFrmEncode_next h <;> simp
  | frmDecode c => obtain ⟨e, -, rfl⟩ | ⟨r, -, rfl⟩ := execFrmDecode_next h <;> simp
  | valDecode c => obtain ⟨e, -, rfl⟩ | ⟨m, q, -, rfl⟩ := execValDecode_next h <;> simp
  | regRead r => obtain ⟨x, rfl, -⟩ := execRegRead_next h; simp

/-- What R18 and R58 ask of the two outcome fields of a response word: a code of R137 or 0, and OK exactly at 0. -/
structure Response.Consistent (r : Response) : Prop where
  named : r.err.toNat ≤ 10
  okIff : r.ok = true ↔ r.err = 0#4

theorem Response.Consistent.success (d : Data) : (Response.success d).Consistent :=
  ⟨by simp [Response.success], by simp [Response.success]⟩

theorem Response.Consistent.error (e : Err) : (Response.error e).Consistent := by
  constructor <;> cases e <;> simp [Response.error, Err.code]

/-- Every command ends in one response word, which goes to ST under the command's opcode field; a command that is not
recorded does nothing before that (R19, R58). -/
theorem exec_finishes {i : Instr} {s t : State} (h : exec i s = .next t) :
    ∃ u r, t = State.finish u i.raw.op r ∧ u.rsps = s.rsps ∧ r.Consistent ∧ (recorded i.raw.op = false → u = s) := by
  cases i with
  | bufClr | crcInit | crcUpdate _ | crcCompute | crcVerify | rst =>
    cases h; exact ⟨_, _, rfl, rfl, .success _, nofun⟩
  | bufPush b =>
    obtain ⟨-, rfl⟩ | ⟨-, rfl⟩ := execBufPush_next h
    · exact ⟨_, _, rfl, rfl, .error _, nofun⟩
    · exact ⟨_, _, rfl, rfl, .success _, nofun⟩
  | bufRead a =>
    obtain ⟨r, rfl, rfl | ⟨d, rfl⟩⟩ := execBufRead_next h
    · exact ⟨_, _, rfl, rfl, .error _, fun _ => rfl⟩
    · exact ⟨_, _, rfl, rfl, .success _, fun _ => rfl⟩
  | frmEncode =>
    obtain rfl | ⟨-, rfl⟩ := execFrmEncode_next h
    · exact ⟨_, _, rfl, rfl, .error _, nofun⟩
    · exact ⟨_, _, rfl, rfl, .success _, nofun⟩
  | frmDecode c =>
    obtain ⟨e, -, rfl⟩ | ⟨r, -, rfl⟩ := execFrmDecode_next h
    · exact ⟨_, _, rfl, rfl, .error _, nofun⟩
    · exact ⟨_, _, rfl, rfl, .success _, nofun⟩
  | valDecode c =>
    obtain ⟨e, -, rfl⟩ | ⟨m, q, -, rfl⟩ := execValDecode_next h
    · exact ⟨_, _, rfl, rfl, .error _, nofun⟩
    · exact ⟨_, _, rfl, rfl, .success _, nofun⟩
  | regRead r =>
    obtain ⟨x, rfl, rfl | ⟨d, rfl⟩⟩ := execRegRead_next h
    · exact ⟨_, _, rfl, rfl, .error _, fun _ => rfl⟩
    · exact ⟨_, _, rfl, rfl, .success _, fun _ => rfl⟩

/-- Where the opcode field is not recorded, only the response word is new (R19). -/
theorem State.finish_not_recorded {op : Nibble} (ho : recorded op = false) (s : State) (r : Response) :
    s.finish op r = { s with rsps := r :: s.rsps } := by
  simp [State.finish, Status.record_not_recorded ho]

theorem recorded_eq_false_iff {op : Nibble} : recorded op = false ↔ op = 0x3#4 ∨ op = 0xB#4 := by
  simp [recorded, or_iff_not_imp_left]

theorem noOperand_ok {arg : Byte} {i j : Instr} (h : noOperand arg i = .ok j) : arg = 0#8 ∧ j = i := by
  unfold noOperand at h
  split at h
  · next ha => cases h; exact ⟨ha, rfl⟩
  · cases h

theorem raw_of_decodeOp_ok {op : Nibble} {arg : Byte} {i : Instr} (h : decodeOp op arg = .ok i) :
    i.raw = ⟨op, 0#4, arg⟩ := by
  have hlit : ∀ n, op.toNat = n → op = BitVec.ofNat 4 n := fun n hn => by simp [← hn]
  unfold decodeOp at h
  split at h
  case h_1 hop | h_4 hop | h_6 hop | h_7 hop | h_8 hop | h_12 hop =>
    obtain ⟨rfl, rfl⟩ := noOperand_ok h
    rw [hlit _ hop]; rfl
  case h_2 hop | h_3 hop | h_5 hop | h_9 hop | h_10 hop | h_11 hop =>
    cases h
    rw [hlit _ hop]; rfl
  case h_13 => cases h

/-- The fields of a decoded command are those of its word (R56, R59). -/
theorem raw_of_decode_ok {w : Half} {i : Instr} (h : decode w = .ok i) : i.raw = fieldsOf w := by
  unfold decode at h
  split at h
  · next hrsv => rw [raw_of_decodeOp_ok h, ← hrsv]; rfl
  · cases h

/-- A malformed word ends as a command does, under its own opcode field, with nothing done before (R64, R96). -/
theorem runWord_finishes {w : Half} {s t : State} (h : runWord w s = .next t) :
    ∃ u r, t = State.finish u (opField w) r ∧ u.rsps = s.rsps ∧ r.Consistent ∧
      (recorded (opField w) = false → u = s) := by
  unfold runWord at h
  split at h
  · next i hd =>
    have hop : i.raw.op = opField w := congrArg RawCommand.op (raw_of_decode_ok hd)
    exact hop ▸ exec_finishes h
  · cases h; exact ⟨s, _, rfl, rfl, .error _, fun _ => rfl⟩

/-- FRM.DECODE of a content that does not decode: the response goes, NAKC takes the code of a Nak (R106). -/
theorem exec_frmDecode_of_error {c : Byte} {s : State} {e : Err} (h : frameDecode s.cfg s.content c = .error e) :
    exec (.frmDecode c) s =
      .next (({ s.clearResponse with nakc := nakcAfter (.error e) } : State).finish 0x9#4 (.error e)) := by
  simp [exec, execFrmDecode, h]

/-- FRM.DECODE of a content that decodes: the response registers describe it (R106). -/
theorem exec_frmDecode_of_ok {c : Byte} {s : State} {r : FrameResponse} (h : frameDecode s.cfg s.content c = .ok r) :
    exec (.frmDecode c) s = .next (({ s with
      st := { s.st with rValid := true }
      resp := ⟨r.address, r.status, s.len - 4⟩
      nakc := 0#8 } : State).finish 0x9#4 (.success (BitVec.ofNat 32 (s.len - 4)))) := by
  simp [exec, execFrmDecode, h]

/-! ### The configuration (R32, R33) -/

theorem FieldDesc.valid_iff (d : FieldDesc) : d.valid = true ↔ FieldLegal d := by
  simp only [FieldDesc.valid, Bool.and_eq_true, decide_eq_true_eq, List.all_eq_true, wMax]
  constructor
  · rintro ⟨⟨⟨⟨⟨⟨hpos, hmax⟩, hlen⟩, hidx⟩, hdup⟩, hdiv⟩, hdivMax⟩
    exact ⟨⟨hpos, hmax⟩, hlen, hidx, hdup, ⟨hdiv, hdivMax⟩⟩
  · rintro ⟨⟨hpos, hmax⟩, hlen, hidx, hdup, ⟨hdiv, hdivMax⟩⟩
    exact ⟨⟨⟨⟨⟨⟨hpos, hmax⟩, hlen⟩, hidx⟩, hdup⟩, hdiv⟩, hdivMax⟩

theorem Layout.fits_iff (n : Nat) (l : Layout) : l.fits n = true ↔ LayoutLegal n l := by
  simp only [Layout.fits, Bool.and_eq_true, decide_eq_true_eq]
  cases l with
  | energy t d => simp [Layout.valid, Layout.byteLen, LayoutLegal, FieldDesc.valid_iff, and_assoc]
  | instant ds => simp [Layout.valid, Layout.byteLen, LayoutLegal, FieldDesc.valid_iff, and_assoc]
  | datetime => simp [Layout.valid, Layout.byteLen, LayoutLegal, eq_comm]

theorem Schema.valid_iff (frameMax : Nat) (x : Schema) :
    x.valid frameMax = true ↔
      x.reqPlen + 4 ≤ frameMax ∧ x.respDlen + 4 ≤ frameMax ∧ ∀ l, x.layout = some l → LayoutLegal x.respDlen l := by
  simp [Schema.valid, Layout.fits_iff, Option.all_eq_true, and_assoc]

/-- The table is checked code by code, and a code outside it has no schema to check. -/
theorem Config.schemasValid_iff (cfg : Config) :
    cfg.schemasValid = true ↔ ∀ c x, cfg.schema c = some x → x.valid cfg.frameMax = true := by
  simp only [Config.schemasValid, List.all_eq_true, Option.all_eq_true]
  constructor
  · intro h c x hx
    obtain ⟨e, he, rfl⟩ := mem_of_lookup hx
    exact h e he x hx
  · intro h e _ x hx
    exact h e.1 x hx

theorem Config.valid_iff (cfg : Config) :
    cfg.valid = true ↔ cfg.polyR ≠ 0#16 ∧ 4 ≤ cfg.frameMax ∧ cfg.frameMax ≤ 256 ∧
      ∀ c x, cfg.schema c = some x → x.valid cfg.frameMax = true := by
  simp [Config.valid, Config.schemasValid_iff, and_assoc]

/-- In a legal configuration every layout is legal. -/
theorem layoutLegal_of_layoutOf {cfg : Config} (hv : cfg.valid = true) {c : Byte} {l : Layout}
    (h : cfg.layoutOf c = some l) : ∃ n, LayoutLegal n l := by
  obtain ⟨x, hx, hl⟩ := Option.bind_eq_some_iff.1 h
  obtain ⟨-, -, -, hschemas⟩ := (Config.valid_iff cfg).1 hv
  obtain ⟨-, -, hlayout⟩ := (Schema.valid_iff _ x).1 (hschemas c x hx)
  exact ⟨x.respDlen, hlayout l hl⟩

/-! ### Decoded responses and Measurements -/

/-- `frame_decode` succeeds on exactly the verified frames with a status that is no NAK and the length that a schema
expects, and gives their positions (R102, R105). -/
theorem frameDecode_eq_ok_iff {cfg : Config} {f : List Byte} {c : Byte} {r : FrameResponse} :
    frameDecode cfg f c = .ok r ↔
      4 ≤ f.length ∧ crcVerify cfg.polyR f = true ∧ cfg.nakCode (f.getD 1 0#8) = none ∧
        (∃ x, cfg.schema c = some x ∧ f.length - 4 = x.respDlen) ∧
        r = ⟨f.getD 0 0#8, f.getD 1 0#8, (f.drop 2).take (f.length - 4)⟩ := by
  unfold frameDecode
  split
  · next hshort => simp [hshort]
  · next hlen =>
    split
    · next hcrc => simp [hcrc]
    · next hcrc =>
      split
      · next k hk => simp only [hk, reduceCtorEq, false_and, and_false]
      · next hnak =>
        split
        · next hx => simp [hx]
        · next x hx =>
          split
          · next hdlen => simp [hx, hdlen]
          · next hdlen =>
            simp_all [frameSplit]
            exact eq_comm

/-- A Measurement that `value_decode` gives: its layout's kind, and one slot for each field of the layout (R119). -/
theorem valueDecode_ok {cfg : Config} {c : Byte} {q : List Byte} {m : Measurement} (h : valueDecode cfg c q = .ok m) :
    ∃ l, cfg.layoutOf c = some l ∧ m = ⟨layoutKind l, (cutFields (layoutFields l) q).map fieldSlot⟩ := by
  unfold valueDecode at h
  split at h
  · cases h
  · next l hl =>
    split at h
    · cases h
    · split at h
      · cases h
      · cases h; exact ⟨l, hl, rfl⟩

@[simp] theorem map_fst_cutFields (ds : List FieldDesc) (q : List Byte) : (cutFields ds q).map Prod.fst = ds := by
  induction ds generalizing q with
  | nil => rfl
  | cons d ds ih => simp [cutFields, ih]

@[simp] theorem length_cutFields (ds : List FieldDesc) (q : List Byte) : (cutFields ds q).length = ds.length := by
  rw [← List.length_map (f := Prod.fst), map_fst_cutFields]

theorem mem_of_mem_cutFields {ds : List FieldDesc} {q : List Byte} {e : FieldDesc × List Byte}
    (h : e ∈ cutFields ds q) : e.1 ∈ ds := by
  simpa using List.mem_map_of_mem (f := Prod.fst) h

theorem length_layoutFields_of_legal {n : Nat} {l : Layout} (h : LayoutLegal n l) :
    1 ≤ (layoutFields l).length ∧ (layoutFields l).length ≤ 16 := by
  cases l with
  | energy t d => obtain ⟨hpos, hmax, -⟩ := h; simp [layoutFields, hpos, hmax]
  | instant ds => obtain ⟨hpos, hmax, -⟩ := h; exact ⟨hpos, hmax⟩
  | datetime => decide

theorem fieldLegal_datetimeFields : ∀ d ∈ datetimeFields, FieldLegal d := by
  simp only [← FieldDesc.valid_iff]
  decide

theorem fieldLegal_of_layoutLegal {n : Nat} {l : Layout} (h : LayoutLegal n l) : ∀ d ∈ layoutFields l, FieldLegal d := by
  cases l with
  | energy t d =>
    obtain ⟨-, -, hd, -⟩ := h
    intro d' hd'
    rwa [List.eq_of_mem_replicate hd']
  | instant ds => obtain ⟨-, -, hds, -⟩ := h; exact hds
  | datetime => exact fieldLegal_datetimeFields

/-- A legal divisor fits its register, so it is not 0 there. -/
theorem fieldSlot_div_ne_zero {e : FieldDesc × List Byte} (h : FieldLegal e.1) : (fieldSlot e).div ≠ 0#32 := by
  obtain ⟨hpos, hmax⟩ := h.div
  intro h0
  have := congrArg BitVec.toNat h0
  simp only [fieldSlot, BitVec.toNat_ofNat] at this
  rw [Nat.mod_eq_of_lt hmax] at this
  omega

/-- The registers that hold a Measurement of 1 to 16 slots with divisors not 0 are measured (R22, R118). -/
theorem Measurement.measured_regs {m : Measurement} (hkind : m.kind ≠ .none) (hpos : 1 ≤ m.slots.length)
    (hmax : m.slots.length ≤ 16) (hdiv : ∀ x ∈ m.slots, x.div ≠ 0#32) : m.regs.Measured := by
  have hcnt : m.regs.cnt.toNat = m.slots.length := by
    simp only [Measurement.regs, BitVec.toNat_ofNat]; omega
  refine ⟨hkind, hcnt ▸ hpos, hcnt ▸ hmax, fun i hi => ?_, fun i hi => ?_⟩
  · rw [hcnt] at hi
    simpa [Measurement.regs, hi] using hdiv _ (List.getElem_mem hi)
  · rw [hcnt] at hi
    simp [Measurement.regs, hi]

/-- Under a legal configuration a decoded Measurement can be held by the value registers (R127). -/
theorem measured_of_valueDecode {cfg : Config} {c : Byte} {q : List Byte} {m : Measurement} (hv : cfg.valid = true)
    (h : valueDecode cfg c q = .ok m) : m.regs.Measured := by
  obtain ⟨l, hl, rfl⟩ := valueDecode_ok h
  obtain ⟨n, hlegal⟩ := layoutLegal_of_layoutOf hv hl
  obtain ⟨hpos, hmax⟩ := length_layoutFields_of_legal hlegal
  refine Measurement.measured_regs ?_ (by simpa using hpos) (by simpa using hmax) fun x hx => ?_
  · cases l <;> simp [layoutKind]
  · obtain ⟨e, he, rfl⟩ := List.mem_map.1 hx
    exact fieldSlot_div_ne_zero (fieldLegal_of_layoutLegal hlegal _ (mem_of_mem_cutFields he))

/-! ### The invariant, command by command -/

/-- The invariant without what it says of OK and ERR, which the end of a recorded command sets anew (R19). -/
structure State.DataInv (s : State) : Prop where
  config       : s.cfg.valid = true
  memCanonical : s.mem.wf
  memInRange   : ∀ c ∈ s.mem, c.1 < s.cfg.frameMax
  lenInRange   : s.len ≤ s.cfg.frameMax
  respWithheld : s.st.rValid = false → s.resp = .zero
  respHeld     : s.st.rValid = true → s.HoldsVerified
  valWithheld  : s.st.vValid = false → s.val = .zero
  valHeld      : s.st.vValid = true → s.val.Measured

theorem State.Inv.data {s : State} (h : s.Inv) : s.DataInv := { h with }

/-- A verified response lies in the configuration, the buffer and the response registers alone. -/
theorem State.HoldsVerified.congr {s t : State} (h : s.HoldsVerified) (hcfg : t.cfg = s.cfg) (hmem : t.mem = s.mem)
    (hlen : t.len = s.len) (hresp : t.resp = s.resp) : t.HoldsVerified := by
  have hcontent : t.content = s.content := by simp [State.content, hmem, hlen]
  constructor <;> simp only [hcfg, hlen, hresp, hcontent]
  exacts [h.verified, h.length, h.plen, h.addr, h.stat, h.notNak, h.expected]

/-- The invariant does not look at CRC, NAKC, the port, the response words or the host. -/
theorem State.Inv.outside {s : State} (h : s.Inv) (c : Half) (k : Byte) (es : List PortEvent) (rs : List Response)
    (a : Agent) : ({ s with crc := c, nakc := k, issue := es, rsps := rs, agent := a } : State).Inv :=
  { h with respHeld := fun hv => (h.respHeld hv).congr rfl rfl rfl rfl }

/-- The end of a recorded command makes ST consistent, whatever OK and ERR were. -/
theorem State.DataInv.finish {s : State} {op : Nibble} {r : Response} (h : s.DataInv) (ho : recorded op = true)
    (hr : r.Consistent) : (s.finish op r).Inv where
  config := h.config
  memCanonical := h.memCanonical
  memInRange := h.memInRange
  lenInRange := h.lenInRange
  errNamed := by simpa [Status.record_recorded ho] using hr.named
  okIffNoErr := .inr (by simpa [Status.record_recorded ho] using hr.okIff)
  respWithheld hv := h.respWithheld (by simpa using hv)
  respHeld hv := (h.respHeld (by simpa using hv)).congr rfl rfl rfl rfl
  valWithheld hv := h.valWithheld (by simpa using hv)
  valHeld hv := h.valHeld (by simpa using hv)

/-- A command that changes nothing but its record and its response word keeps the invariant. -/
theorem State.Inv.finish {s : State} (h : s.Inv) (op : Nibble) {r : Response} (hr : r.Consistent) :
    (s.finish op r).Inv := by
  cases ho : recorded op with
  | true => exact h.data.finish ho hr
  | false => rw [State.finish_not_recorded ho]; exact h.outside _ _ _ _ _

/-- With the response withheld, any buffer inside FRAME_MAX will do (R20, R41). -/
theorem State.DataInv.setBuffer {s : State} (h : s.DataInv) {m : Memory} {n : Nat} (hm : m.wf)
    (hrange : ∀ c ∈ m, c.1 < s.cfg.frameMax) (hn : n ≤ s.cfg.frameMax) :
    ({ s.clearResponse with mem := m, len := n } : State).DataInv :=
  { h with
    memCanonical := hm, memInRange := hrange, lenInRange := hn
    respWithheld := fun _ => rfl, respHeld := fun hv => by cases hv }

theorem State.DataInv.clearResponse {s : State} (h : s.DataInv) : s.clearResponse.DataInv :=
  h.setBuffer h.memCanonical h.memInRange h.lenInRange

/-- Bytes behind the content, inside FRAME_MAX (R93, R104). -/
theorem State.DataInv.append {s : State} (h : s.DataInv) {bs : List Byte} (hfit : s.len + bs.length ≤ s.cfg.frameMax) :
    ({ s.clearResponse with mem := s.mem.writeBytes s.len bs, len := s.len + bs.length } : State).DataInv := by
  refine h.setBuffer (Memory.wf_writeBytes h.memCanonical _ _) (fun c hc => ?_) hfit
  obtain ⟨-, hlt⟩ | hold := Memory.mem_writeBytes hc
  · omega
  · exact h.memInRange c hold

theorem State.DataInv.clearValues {s : State} (h : s.DataInv) : s.clearValues.DataInv :=
  { h with
    respHeld := fun hv => (h.respHeld hv).congr rfl rfl rfl rfl
    valWithheld := fun _ => rfl, valHeld := fun hv => by cases hv }

theorem State.DataInv.setValues {s : State} (h : s.DataInv) {v : ValRegs} (hv : v.Measured) :
    ({ s with st := { s.st with vValid := true }, val := v } : State).DataInv :=
  { h with
    respHeld := fun hr => (h.respHeld hr).congr rfl rfl rfl rfl
    valWithheld := fun h0 => by cases h0
    valHeld := fun _ => hv }

/-- The response registers after a successful FRM.DECODE describe the verified content (R106). -/
theorem State.DataInv.setResponse {s : State} (h : s.DataInv) {c : Byte} {r : FrameResponse}
    (hr : frameDecode s.cfg s.content c = .ok r) :
    ({ s with
      st := { s.st with rValid := true }
      resp := ⟨r.address, r.status, s.len - 4⟩
      nakc := 0#8 } : State).DataInv := by
  obtain ⟨hlen, hcrc, hnak, ⟨x, hx, hdlen⟩, rfl⟩ := frameDecode_eq_ok_iff.1 hr
  rw [State.length_content] at hlen hdlen
  exact { h with
    respWithheld := fun h0 => by cases h0
    respHeld := fun _ => ⟨hcrc, hlen, rfl, rfl, rfl, hnak, c, x, hx, hdlen.symm⟩ }

/-- Every piece of the block at its reset value meets the invariant (R29). -/
theorem State.inv_resetBlock {s : State} (hv : s.cfg.valid = true) : s.resetBlock.Inv where
  config := hv
  memCanonical := Memory.wf_nil
  memInRange c hc := by cases hc
  lenInRange := Nat.zero_le _
  errNamed := Nat.zero_le _
  okIffNoErr := .inl rfl
  respWithheld _ := rfl
  respHeld h := by cases h
  valWithheld _ := rfl
  valHeld h := by cases h

/-- Every command keeps the invariant. -/
theorem exec_keeps_inv {i : Instr} {s t : State} (hs : s.Inv) (h : exec i s = .next t) : t.Inv := by
  have hd := hs.data
  cases i with
  | bufClr => cases h; exact (hd.setBuffer hd.memCanonical hd.memInRange (Nat.zero_le _)).finish rfl (.success _)
  | bufPush b =>
    obtain ⟨-, rfl⟩ | ⟨hfit, rfl⟩ := execBufPush_next h
    · exact hd.clearResponse.finish rfl (.error _)
    · exact (hd.append (bs := [b]) hfit).finish rfl (.success _)
  | bufRead a =>
    obtain ⟨r, rfl, rfl | ⟨d, rfl⟩⟩ := execBufRead_next h
    · exact hs.finish _ (.error _)
    · exact hs.finish _ (.success _)
  | crcInit | crcUpdate _ | crcCompute => cases h; exact (hs.outside _ _ _ _ _).finish _ (.success _)
  | crcVerify => cases h; exact hs.finish _ (.success _)
  | frmEncode =>
    obtain rfl | ⟨hfit, rfl⟩ := execFrmEncode_next h
    · exact hd.clearResponse.finish rfl (.error _)
    · exact (hd.append (bs := split16 _) hfit).finish rfl (.success _)
  | frmDecode c =>
    obtain ⟨e, -, rfl⟩ | ⟨r, hr, rfl⟩ := execFrmDecode_next h
    · exact (hd.clearResponse.finish (op := 0x9#4) rfl (.error e)).outside _ _ _ _ _
    · exact (hd.setResponse hr).finish rfl (.success _)
  | valDecode c =>
    obtain ⟨e, -, rfl⟩ | ⟨m, q, hm, rfl⟩ := execValDecode_next h
    · exact hd.clearValues.finish rfl (.error _)
    · exact (hd.setValues (measured_of_valueDecode hd.config hm)).finish rfl (.success _)
  | regRead r =>
    obtain ⟨x, rfl, rfl | ⟨d, rfl⟩⟩ := execRegRead_next h
    · exact hs.finish _ (.error _)
    · exact hs.finish _ (.success _)
  | rst => cases h; exact (State.inv_resetBlock hs.config).finish _ (.success _)

/-! ### The obligations -/

/-- Settles O51: each kind of step keeps the invariant, the commands one by one. -/
theorem stepKeepsTheInvariant : Obligations.StepKeepsTheInvariant := by
  intro s t hs h
  obtain ⟨es, -, rfl⟩ | ⟨w, es, i, -, -, hexec⟩ | ⟨w, es, e, -, -, rfl⟩ | ⟨es, -, rfl⟩ | ⟨-, is, a, rfl⟩ := step_cases h
  · exact State.inv_resetBlock hs.config
  · exact exec_keeps_inv (hs.outside _ _ _ _ _) hexec
  · exact (hs.outside _ _ _ _ _).finish _ (.error _)
  · exact hs.outside _ _ _ _ _
  · exact hs.outside _ _ _ _ _

/-- Settles O6: the step checks CFG first, and none of the things a step can be writes it. -/
theorem configurationIsFixedAndLegal : Obligations.ConfigurationIsFixedAndLegal := by
  refine ⟨fun s hv => by simp [step, hv], fun s t h => ?_⟩
  obtain ⟨es, -, rfl⟩ | ⟨w, es, i, -, -, hexec⟩ | ⟨w, es, e, -, -, rfl⟩ | ⟨es, -, rfl⟩ | ⟨-, is, a, rfl⟩ := step_cases h
  · rfl
  · obtain ⟨-, hcfg, -⟩ := exec_keeps_host hexec
    exact hcfg
  · rfl
  · rfl
  · rfl

/-- Settles O7: the checks of R33 and R32, each read as what it says. -/
theorem configurationConstraints : Obligations.ConfigurationConstraints := by
  intro cfg
  simp only [Config.valid_iff, Schema.valid_iff]

/-- Settles O15: every word ends in a record under its own opcode field, or in none and then nothing was done; R_VALID
and V_VALID are written by the commands of R20 and R22 alone. -/
theorem recordedCommands : Obligations.RecordedCommands := by
  intro s t w es hissue h
  have hrun : runWord w { s with issue := es } = .next t := (step_of_issue (step_next h).1 hissue).symm.trans h
  obtain ⟨u, r, rfl, hrsps, hr, hidle⟩ := runWord_finishes hrun
  refine ⟨fun ho => ?_, fun ho => ?_, fun hne => ?_, fun hne => ?_⟩
  · have ho' : recorded (opField w) = false := recorded_eq_false_iff.2 ho
    rw [State.finish_not_recorded ho', hidle ho']
    exact ⟨r, rfl⟩
  · have ho' : recorded (opField w) = true := Bool.eq_true_of_not_eq_false (mt recorded_eq_false_iff.1 ho)
    rw [State.finish_st, Status.record_recorded ho']
    exact ⟨rfl, hr.okIff, r, by simp [hrsps], rfl, rfl⟩
  · obtain ⟨i, hd, hexec⟩ := command_changes (·.st.rValid) (fun _ _ _ => rfl) (by simp) hissue h hne
    obtain ⟨-, -, hresp, -⟩ := exec_writers hexec
    exact ⟨i, hd, hresp.resolve_left fun hkeep => hne hkeep.1⟩
  · obtain ⟨i, hd, hexec⟩ := command_changes (·.st.vValid) (fun _ _ _ => rfl) (by simp) hissue h hne
    obtain ⟨-, -, -, hval⟩ := exec_writers hexec
    exact ⟨i, hd, hval.resolve_left fun hkeep => hne hkeep.2⟩

/-- Settles O16: the two writers of BUF's bytes write from LEN on, RST empties the memory, and the rest leave it. -/
theorem bufferBytesFrame : Obligations.BufferBytesFrame := by
  intro i s t hwf h a
  cases i with
  | bufClr | crcInit | crcUpdate _ | crcCompute | crcVerify | rst => cases h; rfl
  | bufPush b =>
    obtain ⟨-, rfl⟩ | ⟨-, rfl⟩ := execBufPush_next h
    · exact fun _ => rfl
    · intro ha
      exact (Memory.read_writeBytes hwf _ _ _).trans (if_neg (by simp; omega))
  | bufRead i => obtain ⟨r, rfl, -⟩ := execBufRead_next h; rfl
  | frmEncode =>
    obtain rfl | ⟨-, rfl⟩ := execFrmEncode_next h
    · exact fun _ _ => rfl
    · intro ha ha'
      exact (Memory.read_writeBytes hwf _ _ _).trans (if_neg (by simp [split16]; omega))
  | frmDecode c => obtain ⟨e, -, rfl⟩ | ⟨r, -, rfl⟩ := execFrmDecode_next h <;> rfl
  | valDecode c => obtain ⟨e, -, rfl⟩ | ⟨m, q, -, rfl⟩ := execValDecode_next h <;> rfl
  | regRead r => obtain ⟨x, rfl, -⟩ := execRegRead_next h; rfl

/-- Settles O28: no other command, no malformed word and no host writes CRC. -/
theorem writersOfCrc : Obligations.WritersOfCrc := by
  intro s t h hne
  refine (step_changes_by_command State.crc (fun _ _ _ => rfl) (fun _ _ _ => rfl) h hne).imp_right ?_
  rintro ⟨w, es, i, hi, hd, hexec⟩
  obtain ⟨hcrc, -⟩ := exec_writers hexec
  exact ⟨w, es, i, hi, hd, hcrc.resolve_left hne⟩

/-- Settles O35: FRM.DECODE follows `frame_decode`, and only it, RST and the hardware reset write NAKC. -/
theorem writersOfNakc : Obligations.WritersOfNakc := by
  refine ⟨fun c s => ?_, fun s => ⟨_, rfl, rfl⟩, fun s t h hne => ?_⟩
  · cases hd : frameDecode s.cfg s.content c with
    | error e => refine ⟨_, exec_frmDecode_of_error hd, ?_, ?_⟩ <;> cases e <;> simp [nakcAfter]
    | ok r => exact ⟨_, exec_frmDecode_of_ok hd, by simp, by simp⟩
  · refine (step_changes_by_command State.nakc (fun _ _ _ => rfl) (fun _ _ _ => rfl) h hne).imp_right ?_
    rintro ⟨w, es, i, hi, hd, hexec⟩
    obtain ⟨-, hnakc, -⟩ := exec_writers hexec
    exact ⟨w, es, i, hi, hd, hnakc.resolve_left hne⟩

/-- Settles O36: command by command; a command that is no writer of the response leaves it. -/
theorem responseGate : Obligations.ResponseGate := by
  intro i s t h
  obtain ⟨-, -, hresp, -⟩ := exec_writers h
  cases i with
  | bufClr => cases h; exact ⟨by simp, rfl⟩
  | rst => cases h; exact ⟨by simp [Status.zero], rfl⟩
  | bufPush b => obtain ⟨-, rfl⟩ | ⟨-, rfl⟩ := execBufPush_next h <;> exact ⟨by simp, rfl⟩
  | frmEncode => obtain rfl | ⟨-, rfl⟩ := execFrmEncode_next h <;> exact ⟨by simp, rfl⟩
  | frmDecode c =>
    obtain ⟨e, he, rfl⟩ | ⟨r, hr, rfl⟩ := execFrmDecode_next h
    · exact ⟨by simp [he], fun _ => rfl⟩
    · exact ⟨by simp [hr], by simp⟩
  | bufRead _ | crcInit | crcUpdate _ | crcCompute | crcVerify | valDecode _ | regRead _ => simpa using hresp

/-- Settles O38: no other command, no malformed word and no host writes the value registers or V_VALID. -/
theorem writersOfTheValueRegisters : Obligations.WritersOfTheValueRegisters := by
  intro s t h hne
  have hne' : ¬(t.val = s.val ∧ t.st.vValid = s.st.vValid) := by tauto
  refine (step_changes_by_command (fun u : State => (u.val, u.st.vValid)) (fun _ _ _ => rfl) (by simp) h
    (by simpa using hne')).imp_right ?_
  rintro ⟨w, es, i, hi, hd, hexec⟩
  obtain ⟨-, -, -, hval⟩ := exec_writers hexec
  exact ⟨w, es, i, hi, hd, hval.resolve_left hne'⟩

/-- Settles O54: the host acts at the port and on its own data alone, and a restart is what R188 says. -/
theorem hostMovesTouchNoRegister : Obligations.HostMovesTouchNoRegister := by
  refine ⟨fun s t hi h => ?_, fun s es hv hi => ?_⟩
  · rw [step_of_idle_port (step_next h).1 hi] at h
    obtain ⟨is, a, rfl⟩ := hostActs_of_agentTurn h
    exact ⟨rfl, is, by simp [hi]⟩
  · rw [step_of_issue hv hi]
    simp only [runEvent, hostRestart, State.restartHost, Phase.restarted_eq]
    rfl

/-- Settles O8: each reset value is read off `State.resetWith`. -/
theorem resetValues : Obligations.ResetValues := by
  have hst : Status.zero.word = 0#32 := by decide
  refine ⟨rfl, fun cfg => ⟨rfl, rfl, fun _ => rfl, rfl, hst, rfl, rfl, rfl, rfl, fun i => ?_, rfl, rfl⟩⟩
  simp [State.resetWith, ValRegs.zero]

/-- ST bit by bit (R18's table). -/
theorem Status.getLsbD_word (st : Status) (i : Nat) :
    st.word.getLsbD i =
      if i < 4 then st.err.getLsbD i else if i = 4 then st.ok else if i = 5 then st.rValid
      else if i = 6 then st.vValid else if i = 7 then false else st.lastOp.getLsbD (i - 8) := by
  have hbeyond : ∀ (n : Nibble) j, 4 ≤ j → n.getLsbD j = false := fun n j => BitVec.getLsbD_of_ge n j
  simp only [Status.word, bit32, BitVec.getLsbD_or, BitVec.getLsbD_shiftLeft, BitVec.getLsbD_setWidth,
    BitVec.getLsbD_ofBool]
  grind

/-- A field of one bit. -/
theorem extractLsb'_one {n : Nat} (v : BitVec n) (k : Nat) : v.extractLsb' k 1 = BitVec.ofBool (v.getLsbD k) := by
  ext i hi
  obtain rfl : i = 0 := by omega
  simp

/-- Settles O14: each field is where the bits of the word say it is. -/
theorem statusWordLayout : Obligations.StatusWordLayout := by
  intro st
  simp only [extractLsb'_one, Status.getLsbD_word]
  refine ⟨?_, rfl, rfl, rfl, rfl, ?_, ?_⟩
  all_goals
    ext i hi
    rw [BitVec.getElem_extractLsb', Status.getLsbD_word]
  · simp [hi]
  · simp (disch := omega) [if_neg]
  · simp (disch := omega) [if_neg, BitVec.getLsbD_of_ge]

/-- The host that has not started meets its invariant (R158). -/
theorem State.hostInv_resetWith (cfg : Config) : (State.resetWith cfg).HostInv where
  budget := Nat.zero_le _
  fresh _ := rfl
  left h := by cases h
  made h := by cases h
  settled _ := ⟨by simp [State.resetWith, Agent.initial, Session.initial], rfl⟩
  exchanging h := by cases h
  opening h := absurd rfl h
  measuring h := by cases h
  awaits h := by cases h
  once _ h := by cases h

/-- Settles O50: the state after reset is a block at its reset values with a host that has not started. -/
theorem resetMeetsTheInvariants : Obligations.ResetMeetsTheInvariants := by
  have hinv : ∀ cfg : Config, cfg.valid = true → (State.resetWith cfg).Inv :=
    fun cfg hv => State.inv_resetBlock (s := State.resetWith cfg) hv
  have hex : excfg.valid = true := by decide
  exact ⟨fun cfg hv => ⟨hinv cfg hv, State.hostInv_resetWith cfg⟩, hex, by decide, hinv excfg hex,
    State.hostInv_resetWith excfg⟩

end Sys2Proof.Machine
end

section
/-! SUPPORT. What each command answers where MemRead and MemWrite are in range, that the invariant keeps them there,
and with it the statements of the family of `20_memory.md`: a step runs the presented command (R47, R59), and from
every state that meets the invariant it answers a next state (R41, R104, R136). -/

namespace Sys2Proof.Machine

/-! ### A presented word -/

theorem runWord_of_decode_ok {w : Half} {i : Instr} (h : decode w = .ok i) (s : State) : runWord w s = exec i s := by
  simp only [runWord, h]

theorem runWord_of_decode_error {w : Half} {e : Malformed} (h : decode w = .error e) (s : State) :
    runWord w s = .next (s.finish (opField w) (.error .illegalOp)) := by
  simp only [runWord, h, execIllegal, State.raise_eq_next]

/-! ### MemRead and MemWrite inside their ranges (R41) -/

theorem State.memRead_of_le {s : State} {a n : Nat} (h : a + n ≤ s.len) :
    s.memRead a n = some (s.mem.readBytes a n) := if_pos h

theorem State.memWrite_of_le {s : State} {a : Nat} {bs : List Byte} (h : a + bs.length ≤ s.cfg.frameMax) :
    s.memWrite a bs = some { s with mem := s.mem.writeBytes a bs } := if_pos h

/-! ### What the commands that access BUF answer -/

/-- BUF.PUSH on a full buffer (R93). -/
theorem exec_bufPush_of_full {s : State} (h : s.len = s.cfg.frameMax) (b : Byte) :
    exec (.bufPush b) s = .next (s.clearResponse.finish 0x2#4 (.error .overflow)) := by
  simp [exec, execBufPush, h]

/-- BUF.PUSH where a byte has room (R93). -/
theorem exec_bufPush_of_lt {s : State} (h : s.len < s.cfg.frameMax) (b : Byte) :
    exec (.bufPush b) s =
      .next (({ s.clearResponse with mem := s.mem.writeBytes s.len [b], len := s.len + 1 } : State).finish 0x2#4
        (.success (BitVec.ofNat 32 (s.len + 1)))) := by
  have hwrite := State.memWrite_of_le (s := s.clearResponse) (a := s.len) (bs := [b]) h
  simp [exec, execBufPush, h.ne, hwrite]

/-- BUF.READ at LEN or past it (R94). -/
theorem exec_bufRead_of_le {s : State} {i : Byte} (h : s.len ≤ i.toNat) :
    exec (.bufRead i) s = .next (s.finish 0x3#4 (.error .illegalOp)) := by
  simp [exec, execBufRead, h]

/-- BUF.READ inside the content (R94). -/
theorem exec_bufRead_of_lt {s : State} {i : Byte} (h : i.toNat < s.len) :
    exec (.bufRead i) s = .next (s.finish 0x3#4 (.success ((s.mem.read i.toNat).setWidth 32))) := by
  have hread := State.memRead_of_le (s := s) (a := i.toNat) (n := 1) h
  simp [exec, execBufRead, Nat.not_le.2 h, hread, Memory.readBytes]

/-- FRM.ENCODE of a content too short for an address and a command code (R104). -/
theorem exec_frmEncode_of_short {s : State} (h : s.len < 2) :
    exec .frmEncode s = .next (s.clearResponse.finish 0x8#4 (.error .constructionError)) := by
  rw [← State.length_content] at h
  simp only [exec, execFrmEncode]
  split
  · next a c p hc => simp [hc] at h
  · rfl

/-- FRM.ENCODE of a content that is no request (R104). -/
theorem exec_frmEncode_of_error {s : State} {a c : Byte} {p : List Byte} {e : Err} (hc : s.content = a :: c :: p)
    (he : frameEncode s.cfg a c p = .error e) :
    exec .frmEncode s = .next (s.clearResponse.finish 0x8#4 (.error e)) := by
  simp [exec, execFrmEncode, hc, he]

/-- FRM.ENCODE of a request whose checksum has room (R104). -/
theorem exec_frmEncode_of_ok {s : State} {a c : Byte} {p f : List Byte} (hc : s.content = a :: c :: p)
    (hf : frameEncode s.cfg a c p = .ok f) (hfit : s.len + 2 ≤ s.cfg.frameMax) :
    exec .frmEncode s =
      .next (({ s.clearResponse with
        mem := s.mem.writeBytes s.len (split16 (crc16 s.cfg.polyR s.content)), len := s.len + 2 } : State).finish 0x8#4
          (.success (BitVec.ofNat 32 (s.len + 2)))) := by
  have hwrite := State.memWrite_of_le (s := s.clearResponse) (a := s.len)
    (bs := split16 (crc16 s.cfg.polyR s.content)) hfit
  simp only [exec, execFrmEncode, hc, hf, State.appendFrameChecksum, State.clearResponse_cfg, State.clearResponse_len,
    State.clearResponse_content] at hwrite ⊢
  simp [hwrite]

/-- VAL.DECODE without a valid response (R118). -/
theorem exec_valDecode_of_noFrame {s : State} (h : s.st.rValid = false) (c : Byte) :
    exec (.valDecode c) s = .next (s.clearValues.finish 0xA#4 (.error .noFrame)) := by
  simp [exec, execValDecode, h]

/-- VAL.DECODE of a valid response with a payload that does not decode (R118). -/
theorem exec_valDecode_of_error {s : State} {c : Byte} {e : Err} (h : s.st.rValid = true)
    (hfit : 2 + s.resp.plen ≤ s.len) (he : valueDecode s.cfg c (s.mem.readBytes 2 s.resp.plen) = .error e) :
    exec (.valDecode c) s = .next (s.clearValues.finish 0xA#4 (.error e)) := by
  simp [exec, execValDecode, h, State.memRead_of_le hfit, he]

/-- VAL.DECODE of a valid response with a payload that decodes (R118). -/
theorem exec_valDecode_of_ok {s : State} {c : Byte} {m : Measurement} (h : s.st.rValid = true)
    (hfit : 2 + s.resp.plen ≤ s.len) (hm : valueDecode s.cfg c (s.mem.readBytes 2 s.resp.plen) = .ok m) :
    exec (.valDecode c) s =
      .next (({ s with st := { s.st with vValid := true }, val := m.regs } : State).finish 0xA#4
        (.success (m.regs.cnt.setWidth 32))) := by
  simp [exec, execValDecode, h, State.memRead_of_le hfit, hm, State.storeValues]

/-! ### The invariant keeps every access in range -/

/-- A request that `frame_encode` accepts has the length its schema asks, so its frame fits (R33, R101). -/
theorem length_of_frameEncode_ok {cfg : Config} (hv : cfg.valid = true) {a c : Byte} {p f : List Byte}
    (h : frameEncode cfg a c p = .ok f) : p.length + 4 ≤ cfg.frameMax := by
  obtain ⟨-, -, -, hschemas⟩ := (Config.valid_iff cfg).1 hv
  unfold frameEncode at h
  split at h
  · cases h
  · next x hx =>
    obtain ⟨hreq, -⟩ := (Schema.valid_iff _ x).1 (hschemas c x hx)
    split at h
    · cases h
    · next hlen => omega

/-- The payload of a verified response lies in the content (R20). -/
theorem State.HoldsVerified.payload_le {s : State} (h : s.HoldsVerified) : 2 + s.resp.plen ≤ s.len := by
  have := h.length
  have := h.plen
  omega

theorem exec_bufPush_answers {s : State} (h : s.len ≤ s.cfg.frameMax) (b : Byte) :
    ∃ t, exec (.bufPush b) s = .next t := by
  obtain hlt | hfull := h.lt_or_eq
  · exact ⟨_, exec_bufPush_of_lt hlt b⟩
  · exact ⟨_, exec_bufPush_of_full hfull b⟩

theorem exec_bufRead_answers (s : State) (i : Byte) : ∃ t, exec (.bufRead i) s = .next t := by
  obtain hlt | hle := Nat.lt_or_ge i.toNat s.len
  · exact ⟨_, exec_bufRead_of_lt hlt⟩
  · exact ⟨_, exec_bufRead_of_le hle⟩

theorem exec_frmEncode_answers {s : State} (hv : s.cfg.valid = true) : ∃ t, exec .frmEncode s = .next t := by
  have hlen := s.length_content
  match hc : s.content with
  | [] | [_] => exact ⟨_, exec_frmEncode_of_short (by simp [← hlen, hc])⟩
  | a :: c :: p =>
    cases hf : frameEncode s.cfg a c p with
    | error e => exact ⟨_, exec_frmEncode_of_error hc hf⟩
    | ok f =>
      have hfit := length_of_frameEncode_ok hv hf
      simp only [hc, List.length_cons] at hlen
      exact ⟨_, exec_frmEncode_of_ok hc hf (by omega)⟩

theorem exec_frmDecode_answers (s : State) (c : Byte) : ∃ t, exec (.frmDecode c) s = .next t := by
  cases hd : frameDecode s.cfg s.content c with
  | error e => exact ⟨_, exec_frmDecode_of_error hd⟩
  | ok r => exact ⟨_, exec_frmDecode_of_ok hd⟩

theorem exec_valDecode_answers {s : State} (h : s.st.rValid = true → s.HoldsVerified) (c : Byte) :
    ∃ t, exec (.valDecode c) s = .next t := by
  cases hv : s.st.rValid with
  | false => exact ⟨_, exec_valDecode_of_noFrame hv c⟩
  | true =>
    have hfit := (h hv).payload_le
    cases hd : valueDecode s.cfg c (s.mem.readBytes 2 s.resp.plen) with
    | error e => exact ⟨_, exec_valDecode_of_error hv hfit hd⟩
    | ok m => exact ⟨_, exec_valDecode_of_ok hv hfit hd⟩

theorem exec_regRead_answers (s : State) (r : Byte) : ∃ t, exec (.regRead r) s = .next t := by
  simp only [exec, execRegRead]
  split <;> exact ⟨_, rfl⟩

/-- From a state that meets the invariant every command answers a next state: BUF.READ tests its index itself, and the
invariant has in range what BUF.PUSH, FRM.ENCODE and VAL.DECODE access (R41, R136). -/
theorem exec_answers {s : State} (hs : s.Inv) (i : Instr) : ∃ t, exec i s = .next t := by
  cases i with
  | bufClr | crcInit | crcUpdate _ | crcCompute | crcVerify | rst => exact ⟨_, rfl⟩
  | bufPush b => exact exec_bufPush_answers hs.lenInRange b
  | bufRead i => exact exec_bufRead_answers s i
  | frmEncode => exact exec_frmEncode_answers hs.config
  | frmDecode c => exact exec_frmDecode_answers s c
  | valDecode c => exact exec_valDecode_answers hs.respHeld c
  | regRead r => exact exec_regRead_answers s r

/-- So does every word, a malformed one as the illegal command (R59, R64). -/
theorem runWord_answers {s : State} (hs : s.Inv) (w : Half) : ∃ t, runWord w s = .next t := by
  cases hd : decode w with
  | ok i => rw [runWord_of_decode_ok hd]; exact exec_answers hs i
  | error e => exact ⟨_, runWord_of_decode_error hd s⟩

theorem runEvent_answers {s : State} (hs : s.Inv) (e : PortEvent) : ∃ t, runEvent e s = .next t := by
  cases e with
  | command w => exact runWord_answers hs w
  | hardwareReset | hostRestart => exact ⟨_, rfl⟩

/-- A host whose parameters are as R6 asks has a turn whatever it stands at. -/
theorem agentTurn_answers {s : State} (hh : s.cfg.hostValid = true) : ∃ t, agentTurn s = .next t := by
  cases hq : s.agent.quiet with
  | true => exact ⟨s, by simp [agentTurn, hq]⟩
  | false => exact ⟨s.hostMove, by simp [agentTurn, hq, hh]⟩

/-! ### The obligations -/

/-- Settles O53: what is presented is answered because the invariant keeps every access in range, and with nothing
presented the host's turn is. -/
theorem everyStepAnswersNext : Obligations.EveryStepAnswersNext := by
  intro s hs hh
  cases hi : s.issue with
  | nil => rw [step_of_idle_port hs.config hi]; exact agentTurn_answers hh
  | cons e es =>
    rw [step_of_issue hs.config hi]
    exact runEvent_answers (hs.outside s.crc s.nakc es s.rsps s.agent) e

/-- Settles O5: the step takes the word from the port and runs what it decodes to. -/
theorem stepRunsPresentedCommand : Obligations.StepRunsPresentedCommand := by
  intro s w es i hv hi hd
  rw [step_of_issue hv hi]
  exact runWord_of_decode_ok hd _

end Sys2Proof.Machine
end

section
/-! SUPPORT. The word of a command and its fields, the decoder as the inverse of the encoder, the response word of a
command by its outcome, and with them the statements of the family of `30_encoding.md`: the opcode map (R56, R57),
malformed words (R59, R64), the response word (R58). -/

namespace Sys2Proof.Machine

/-! ### The fields of a command word (R56) -/

@[simp] theorem fieldsOf_commandWord (op : Nibble) (arg : Byte) : fieldsOf (commandWord op arg) = ⟨op, 0#4, arg⟩ := by
  have hop : (commandWord op arg).extractLsb' 12 4 = op :=
    (BitVec.extractLsb'_append_eq_of_le (by decide)).trans BitVec.extractLsb'_append_eq_left
  have hrsv : (commandWord op arg).extractLsb' 8 4 = 0#4 :=
    (BitVec.extractLsb'_append_eq_of_le (by decide)).trans BitVec.extractLsb'_append_eq_right
  have harg : (commandWord op arg).extractLsb' 0 8 = arg := BitVec.extractLsb'_append_eq_right
  rw [fieldsOf, hop, hrsv, harg]

/-- A word whose RSV is zero is put together from its other two fields. -/
theorem commandWord_of_rsvField_eq_zero {w : Half} (h : rsvField w = 0#4) :
    commandWord (opField w) (argField w) = w := by
  have hhigh : opField w ++ rsvField w = w.extractLsb' 8 8 := BitVec.extractLsb'_append_extractLsb'_eq_extractLsb' rfl
  rw [commandWord, ← h, hhigh]
  exact BitVec.extractLsb'_append_extractLsb'

/-- The fields of a command make its word (R57). -/
theorem encode_eq_commandWord (i : Instr) : encode i = commandWord i.raw.op i.raw.arg := by cases i <;> rfl

@[simp] theorem raw_rsv (i : Instr) : i.raw.rsv = 0#4 := by cases i <;> rfl

@[simp] theorem fieldsOf_encode (i : Instr) : fieldsOf (encode i) = i.raw := by
  rw [encode_eq_commandWord, fieldsOf_commandWord, ← raw_rsv i]

/-! ### The decoder is the inverse of the encoder (R57, R59) -/

/-- The opcode map, read row by row. -/
theorem decodeOp_raw (i : Instr) : decodeOp i.raw.op i.raw.arg = .ok i := by cases i <;> rfl

theorem decode_encode (i : Instr) : decode (encode i) = .ok i := by
  have hrsv : rsvField (encode i) = 0#4 := (congrArg RawCommand.rsv (fieldsOf_encode i)).trans (raw_rsv i)
  have hop : opField (encode i) = i.raw.op := congrArg RawCommand.op (fieldsOf_encode i)
  have harg : argField (encode i) = i.raw.arg := congrArg RawCommand.arg (fieldsOf_encode i)
  rw [decode, if_pos hrsv, hop, harg, decodeOp_raw]

theorem encode_of_raw_eq {w : Half} {i : Instr} (h : i.raw = fieldsOf w) : encode i = w := by
  have hrsv : rsvField w = 0#4 := (congrArg RawCommand.rsv h).symm.trans (raw_rsv i)
  rw [encode_eq_commandWord, h]
  exact commandWord_of_rsvField_eq_zero hrsv

/-- A word decodes to the command whose fields it has, and to no other. -/
theorem decode_eq_ok_iff {w : Half} {i : Instr} : decode w = .ok i ↔ i.raw = fieldsOf w :=
  ⟨raw_of_decode_ok, fun h => encode_of_raw_eq h ▸ decode_encode i⟩

theorem decode_error_of_ne_ok {w : Half} (h : ∀ i, decode w ≠ .ok i) : ∃ e, decode w = .error e := by
  cases hd : decode w with
  | error e => exact ⟨e, rfl⟩
  | ok i => exact absurd hd (h i)

/-! ### Well-formed fields are those of a command (R59) -/

/-- Every command passes the checks of R59. -/
theorem instr_wf (i : Instr) : i.wf = true := by cases i <;> rfl

/-- Fields that pass the checks are a row of the opcode map: one of the six with an operand, or one of the six
without, and then ARG is zero. -/
theorem exists_raw_eq_of_wf {c : RawCommand} (h : c.wf = true) : ∃ i : Instr, i.raw = c := by
  obtain ⟨op, rsv, arg⟩ := c
  simp only [RawCommand.wf, RawCommand.reservedZero, RawCommand.operandAllowed, Bool.and_eq_true, Bool.or_eq_true,
    beq_iff_eq] at h
  obtain ⟨⟨hdefined, rfl⟩, hoperand⟩ := h
  cases htakes : RawCommand.takesOperand ⟨op, 0#4, arg⟩ with
  | true =>
    have hrow : op = 0x2#4 ∨ op = 0x3#4 ∨ op = 0x5#4 ∨ op = 0x9#4 ∨ op = 0xA#4 ∨ op = 0xB#4 := by
      simpa [RawCommand.takesOperand, or_assoc] using htakes
    obtain rfl | rfl | rfl | rfl | rfl | rfl := hrow
    exacts [⟨.bufPush arg, rfl⟩, ⟨.bufRead arg, rfl⟩, ⟨.crcUpdate arg, rfl⟩, ⟨.frmDecode arg, rfl⟩,
      ⟨.valDecode arg, rfl⟩, ⟨.regRead arg, rfl⟩]
  | false =>
    obtain rfl : arg = 0#8 := by simpa [htakes] using hoperand
    have hrow : op = 0x1#4 ∨ op = 0x4#4 ∨ op = 0x6#4 ∨ op = 0x7#4 ∨ op = 0x8#4 ∨ op = 0xF#4 := by
      revert op; decide
    obtain rfl | rfl | rfl | rfl | rfl | rfl := hrow
    exacts [⟨.bufClr, rfl⟩, ⟨.crcInit, rfl⟩, ⟨.crcCompute, rfl⟩, ⟨.crcVerify, rfl⟩, ⟨.frmEncode, rfl⟩, ⟨.rst, rfl⟩]

/-- The checks of R59 pass exactly the words that decode. -/
theorem fieldsOf_wf_iff {w : Half} : (fieldsOf w).wf = true ↔ ∃ i, decode w = .ok i := by
  simp only [decode_eq_ok_iff]
  constructor
  · exact exists_raw_eq_of_wf
  · rintro ⟨i, hi⟩
    exact hi ▸ instr_wf i

theorem decode_error_of_malformed {w : Half} (h : (fieldsOf w).wf = false) : ∃ e, decode w = .error e :=
  decode_error_of_ne_ok fun i hd => by simp [fieldsOf_wf_iff.2 ⟨i, hd⟩] at h

/-! ### The response word of a command (R58) -/

/-- Where the opcode field is recorded, the outcome stands in ST and in the response word alike (R19, R58). -/
theorem State.finish_recorded {op : Nibble} (ho : recorded op = true) (s : State) (r : Response) :
    s.finish op r = { s with
      st := { s.st with lastOp := op, ok := r.ok, err := r.err }
      rsps := r :: s.rsps } := by
  simp [State.finish, Status.record_recorded ho]

/-- A response word is that of a success, or that of an error; and on Nak `nakc` is its code. -/
def Response.Reports (r : Response) (nakc : Byte) : Prop :=
  (∃ d, r = .success d) ∨ ∃ e, r = .error e ∧ ∀ k, e = .nak k → nakc = k

theorem Response.Reports.success (d : Data) (nakc : Byte) : (Response.success d).Reports nakc := .inl ⟨d, rfl⟩

theorem Response.Reports.error {e : Err} {nakc : Byte} (h : ∀ k, e = .nak k → nakc = k) :
    (Response.error e).Reports nakc := .inr ⟨e, rfl, h⟩

/-- Every command answers with one response word, and a Nak with the code it leaves in NAKC. -/
theorem exec_reports {i : Instr} {s t : State} (h : exec i s = .next t) :
    ∃ r, t.rsps = r :: s.rsps ∧ r.Reports t.nakc := by
  cases i with
  | bufClr | crcInit | crcUpdate _ | crcCompute | crcVerify | rst => cases h; exact ⟨_, rfl, .success _ _⟩
  | bufPush b =>
    obtain ⟨-, rfl⟩ | ⟨-, rfl⟩ := execBufPush_next h
    · exact ⟨_, rfl, .error nofun⟩
    · exact ⟨_, rfl, .success _ _⟩
  | bufRead a =>
    obtain ⟨r, rfl, rfl | ⟨d, rfl⟩⟩ := execBufRead_next h
    · exact ⟨_, rfl, .error nofun⟩
    · exact ⟨_, rfl, .success _ _⟩
  | frmEncode =>
    obtain rfl | ⟨-, rfl⟩ := execFrmEncode_next h
    · exact ⟨_, rfl, .error nofun⟩
    · exact ⟨_, rfl, .success _ _⟩
  | frmDecode c =>
    obtain ⟨e, -, rfl⟩ | ⟨r, -, rfl⟩ := execFrmDecode_next h
    · exact ⟨_, rfl, .error fun k hk => by simp [hk, nakcAfter]⟩
    · exact ⟨_, rfl, .success _ _⟩
  | valDecode c =>
    obtain ⟨e, he, rfl⟩ | ⟨m, q, -, rfl⟩ := execValDecode_next h
    · exact ⟨_, rfl, .error fun k hk => by simp [hk] at he⟩
    · exact ⟨_, rfl, .success _ _⟩
  | regRead r =>
    obtain ⟨x, rfl, rfl | ⟨d, rfl⟩⟩ := execRegRead_next h
    · exact ⟨_, rfl, .error nofun⟩
    · exact ⟨_, rfl, .success _ _⟩

/-- So does a malformed word, as the illegal command (R64). -/
theorem runWord_reports {w : Half} {s t : State} (h : runWord w s = .next t) :
    ∃ r, t.rsps = r :: s.rsps ∧ r.Reports t.nakc := by
  cases hd : decode w with
  | ok i => exact exec_reports (runWord_of_decode_ok hd s ▸ h)
  | error e =>
    cases (runWord_of_decode_error hd s).symm.trans h
    exact ⟨_, rfl, .error nofun⟩

theorem Response.Reports.consistent {r : Response} {nakc : Byte} (h : r.Reports nakc) : r.Consistent := by
  obtain ⟨d, rfl⟩ | ⟨e, rfl, -⟩ := h
  · exact .success d
  · exact .error e

/-- An error has no DATA but the code of a Nak (R58, R141). -/
theorem Response.Reports.data {r : Response} {nakc : Byte} (h : r.Reports nakc) (herr : r.err ≠ 0#4) :
    r.data = if r.err = 3#4 then nakc.setWidth 32 else 0#32 := by
  obtain ⟨d, rfl⟩ | ⟨e, rfl, hnak⟩ := h
  · exact absurd rfl herr
  · cases e with
    | nak k => rw [hnak k rfl]; rfl
    | truncated | checksumMismatch | badLength | badDigit | unknownCommand | constructionError | illegalOp | overflow
    | noFrame => rfl

/-- The packed word is its four parts side by side (R58). -/
theorem Response.packed_eq_append (r : Response) :
    r.packed = ((0#3 ++ BitVec.ofBool r.ok) ++ r.err) ++ r.data := by
  ext i hi
  simp only [Response.packed, BitVec.getElem_or, BitVec.getElem_shiftLeft, BitVec.getElem_setWidth,
    BitVec.getLsbD_ofBool]
  grind

/-! ### The obligations -/

/-- Settles O2: the fields of the word are the command's, and the opcode map reads them as that command. -/
theorem decodeEncodeRoundTrip : Obligations.DecodeEncodeRoundTrip := fun i _ => decode_encode i

/-- Settles O1: each row is read off the encoder; a word that decodes is the word of the command it decodes to. -/
theorem opcodeMapWords : Obligations.OpcodeMapWords := by
  exact ⟨rfl, fun _ => rfl, fun _ => rfl, rfl, fun _ => rfl, rfl, rfl, rfl, fun _ => rfl, fun _ => rfl, fun _ => rfl,
    rfl, fun w hw => decode_error_of_ne_ok fun i hd => hw i (encode_of_raw_eq (raw_of_decode_ok hd))⟩

/-- Settles O4: the checks of R59 pass exactly the words that decode, and the illegal command leaves its record in ST
unless its opcode field is one that is not recorded. -/
theorem malformedWordIsIllegalCommand : Obligations.MalformedWordIsIllegalCommand := by
  refine fun w => ⟨fun hw => ?_, fun hw => ?_⟩
  · obtain ⟨e, hd⟩ := decode_error_of_malformed hw
    refine ⟨⟨e, hd⟩, fun s es hv hi => ?_⟩
    rw [step_of_issue hv hi]
    refine (runWord_of_decode_error hd _).trans (congrArg Host.Outcome.next ?_)
    by_cases ho : (fieldsOf w).op = 0x3#4 ∨ (fieldsOf w).op = 0xB#4
    · rw [if_pos ho]
      exact State.finish_not_recorded (recorded_eq_false_iff.2 ho) _ _
    · rw [if_neg ho]
      exact State.finish_recorded (Bool.eq_true_of_not_eq_false (mt recorded_eq_false_iff.1 ho)) _ _
  · obtain ⟨i, hd⟩ := fieldsOf_wf_iff.1 hw
    exact ⟨i, hd, raw_of_decode_ok hd⟩

/-- Settles O48: the word's response is that of a success or of an error, and the packed word is its
four parts side by side. -/
theorem oneResponsePerCommand : Obligations.OneResponsePerCommand := by
  refine ⟨fun s t w es hi h => ?_, fun r => ?_⟩
  · obtain ⟨r, hrsps, hr⟩ := runWord_reports ((step_of_issue (step_next h).1 hi).symm.trans h)
    refine ⟨r, hrsps, hr.consistent.okIff, fun herr hnak => ?_, fun hnak => ?_⟩
    · rw [hr.data herr, if_neg hnak]
    · rw [hr.data (by simp [hnak]), if_pos hnak]
  · rw [r.packed_eq_append]
    refine ⟨?_, ?_, ?_, BitVec.extractLsb'_append_eq_right⟩ <;>
      simp only [BitVec.extractLsb'_append_eq_of_le, Nat.reduceLeDiff, Nat.reduceSub,
        BitVec.extractLsb'_append_eq_right, BitVec.extractLsb'_eq_self]

/-- Settles O3: each word written out is its command's, so the round trip decodes it. -/
theorem writtenOutWordsDecode : Obligations.WrittenOutWordsDecode :=
  ⟨decode_encode .bufClr, decode_encode (.bufPush 0xAA#8), decode_encode (.crcUpdate 0x50#8),
    decode_encode (.frmDecode 0x05#8), decode_encode (.valDecode 0x08#8), decode_encode (.regRead 0x31#8),
    decode_encode .rst⟩

end Sys2Proof.Machine
end

section
/-! SUPPORT. The checksum as a linear function of the register (`40_crc.md` R77 to R81): what a bit step does to each
bit, bit steps over exclusive-or, the two bytes of a trailing checksum folded in, and a single bit that no number of
bit steps clears; runs of CRC.UPDATE and BUF.PUSH; and with them the statements of the family of `40_crc.md`. -/

namespace Sys2Proof.Machine

/-! ### Bit steps (R77) -/

theorem getLsbD_crcBit (poly c : Half) (i : Nat) :
    (crcBit poly c).getLsbD i = (c.getLsbD (i + 1) ^^ (c.getLsbD 0 && poly.getLsbD i)) := by
  unfold crcBit
  cases c.getLsbD 0 <;> simp [Nat.add_comm]

theorem crcBit_of_even {c : Half} (h : c.getLsbD 0 = false) (poly : Half) : crcBit poly c = c >>> 1 := by
  rw [crcBit, h, if_neg Bool.false_ne_true]

/-- A bit step is linear over exclusive-or. -/
theorem crcBit_xor (poly c d : Half) : crcBit poly (c ^^^ d) = crcBit poly c ^^^ crcBit poly d := by
  apply BitVec.eq_of_getLsbD_eq
  intro i _
  simp only [getLsbD_crcBit, BitVec.getLsbD_xor]
  grind

@[simp] theorem crcBits_zero (poly : Half) (n : Nat) : crcBits poly n 0#16 = 0#16 := by
  induction n with
  | zero => rfl
  | succ n ih => rw [crcBits, crcBit_of_even rfl]; exact ih

theorem crcBits_xor (poly : Half) (n : Nat) (c d : Half) :
    crcBits poly n (c ^^^ d) = crcBits poly n c ^^^ crcBits poly n d := by
  induction n generalizing c d with
  | zero => rfl
  | succ n ih => simp only [crcBits, crcBit_xor, ih]

theorem crcBits_eq_iterate (poly : Half) (n : Nat) : crcBits poly n = (crcBit poly)^[n] := by
  induction n with
  | zero => rfl
  | succ n ih => funext c; simp only [crcBits, ih, Function.iterate_succ_apply]

theorem crcBits_add (poly : Half) (m n : Nat) (c : Half) :
    crcBits poly (m + n) c = crcBits poly n (crcBits poly m c) := by
  simp only [crcBits_eq_iterate, Nat.add_comm m n, Function.iterate_add_apply]

/-- Zeros that leave at bit 0 never bring the polynomial in: the register is only shifted. -/
theorem crcBits_of_low_zero (poly : Half) {n : Nat} {c : Half} (h : ∀ i < n, c.getLsbD i = false) :
    crcBits poly n c = c >>> n := by
  induction n generalizing c with
  | zero => simp [crcBits]
  | succ n ih =>
    rw [crcBits, crcBit_of_even (h 0 (Nat.succ_pos n)), ih, Nat.add_comm, BitVec.shiftRight_add]
    intro i hi
    simpa [Nat.add_comm] using h (i + 1) (Nat.succ_lt_succ hi)

/-! ### The two bytes of a 16-bit number (R8, R45) -/

theorem join16_eq_xor (lo hi : Byte) : join16 lo hi = lo.setWidth 16 ^^^ (hi.setWidth 16 <<< 8) := by
  apply BitVec.eq_of_getLsbD_eq
  intro i _
  simp only [join16, BitVec.getLsbD_or, BitVec.getLsbD_xor, BitVec.getLsbD_shiftLeft, BitVec.getLsbD_setWidth]
  grind

@[simp] theorem join16_lo8_hi8 (c : Half) : join16 (lo8 c) (hi8 c) = c := by
  apply BitVec.eq_of_getLsbD_eq
  intro i hi
  simp only [join16, lo8, hi8, BitVec.getLsbD_or, BitVec.getLsbD_shiftLeft, BitVec.getLsbD_setWidth,
    BitVec.getLsbD_extractLsb']
  grind

theorem getLsbD_xor_lo8 (c : Half) {i : Nat} (h : i < 8) : (c ^^^ (lo8 c).setWidth 16).getLsbD i = false := by
  simp [lo8, h, show i < 16 by omega]

@[simp] theorem setWidth_ushiftRight_eight (b : Byte) : b.setWidth 16 >>> 8 = 0#16 := by
  apply BitVec.eq_of_getLsbD_eq
  intro i _
  simp

/-! ### Byte steps (R78, R81) -/

/-- Folding in two bytes is sixteen bit steps on the register turned by the 16-bit number they make. -/
theorem crcByte_crcByte (poly c : Half) (lo hi : Byte) :
    crcByte poly (crcByte poly c lo) hi = crcBits poly 16 (c ^^^ join16 lo hi) := by
  have hhi : crcBits poly 8 (hi.setWidth 16 <<< 8) = hi.setWidth 16 := by
    rw [crcBits_of_low_zero]
    · apply BitVec.eq_of_getLsbD_eq
      intro i _
      simp only [BitVec.getLsbD_ushiftRight, BitVec.getLsbD_shiftLeft, BitVec.getLsbD_setWidth]
      grind
    · intro i hi
      simp [hi]
  calc crcByte poly (crcByte poly c lo) hi
      = crcBits poly 8 (crcBits poly 8 (c ^^^ lo.setWidth 16) ^^^ crcBits poly 8 (hi.setWidth 16 <<< 8)) := by
        rw [hhi, crcByte, crcByte]
    _ = crcBits poly (8 + 8) (c ^^^ join16 lo hi) := by
        rw [← crcBits_xor, ← crcBits_add, join16_eq_xor, BitVec.xor_assoc]

/-- The table form (R81): the high byte does not reach bit 0 in eight bit steps, the low byte is the table's. -/
theorem crcByteByTable_eq_crcByte (poly c : Half) (b : Byte) : crcByteByTable poly c b = crcByte poly c b := by
  have hhigh : crcBits poly 8 (c ^^^ (lo8 c).setWidth 16) = c >>> 8 := by
    rw [crcBits_of_low_zero poly fun i hi => getLsbD_xor_lo8 c hi, BitVec.ushiftRight_xor_distrib,
      setWidth_ushiftRight_eight, BitVec.xor_zero]
  calc crcByteByTable poly c b
      = crcBits poly 8 ((c ^^^ (lo8 c).setWidth 16) ^^^ (lo8 c ^^^ b).setWidth 16) := by
        rw [crcBits_xor, hhigh, crcByteByTable, crcTable]
    _ = crcByte poly c b := by
        rw [crcByte, BitVec.setWidth_xor, BitVec.xor_assoc, ← BitVec.xor_assoc _ _ (b.setWidth 16), BitVec.xor_self,
          BitVec.zero_xor]

/-- A difference in the register comes out of a byte step as eight bit steps of it. -/
theorem crcByte_xor (poly c d : Half) (b : Byte) :
    crcByte poly (c ^^^ d) b = crcByte poly c b ^^^ crcBits poly 8 d := by
  rw [crcByte, crcByte, ← crcBits_xor]
  congr 1
  ac_rfl

/-- A difference in the byte is one in the low 8 bits of the register. -/
theorem crcByte_xor_byte (poly c : Half) (b e : Byte) :
    crcByte poly c (b ^^^ e) = crcByte poly (c ^^^ e.setWidth 16) b := by
  rw [crcByte, crcByte, BitVec.setWidth_xor]
  congr 1
  ac_rfl

/-! ### The checksum and its verification (R79, R80) -/

theorem crc16_append_singleton (poly : Half) (s : List Byte) (b : Byte) :
    crc16 poly (s ++ [b]) = crcByte poly (crc16 poly s) b := by
  simp [crc16, List.foldl_append]

theorem crc16_append_pair (poly : Half) (p : List Byte) (lo hi : Byte) :
    crc16 poly (p ++ [lo, hi]) = crcBits poly 16 (crc16 poly p ^^^ join16 lo hi) := by
  rw [← crcByte_crcByte]
  simp [crc16, List.foldl_append]

theorem crcVerify_of_short (poly : Half) {f : List Byte} (h : f.length < 2) : crcVerify poly f = false := by
  simp [crcVerify, Nat.not_le.2 h]

theorem crcVerify_append_pair (poly : Half) (p : List Byte) (lo hi : Byte) :
    crcVerify poly (p ++ [lo, hi]) = true ↔ crc16 poly p = join16 lo hi := by
  simp [crcVerify]

theorem exists_append_pair {f : List Byte} (h : 2 ≤ f.length) : ∃ p lo hi, f = p ++ [lo, hi] := by
  have hlast : (f.drop (f.length - 2)).length = 2 := by rw [List.length_drop]; omega
  obtain ⟨lo, hi, hpair⟩ := List.length_eq_two.1 hlast
  exact ⟨f.take (f.length - 2), lo, hi, by rw [← hpair, List.take_append_drop]⟩

/-- A verified sequence is a payload followed by the two bytes of its checksum. -/
theorem exists_of_crcVerify {poly : Half} {f : List Byte} (h : crcVerify poly f = true) :
    ∃ p lo hi, f = p ++ [lo, hi] ∧ crc16 poly p = join16 lo hi := by
  have hlen : 2 ≤ f.length := by
    by_contra hshort
    simp [crcVerify_of_short poly (Nat.not_le.1 hshort)] at h
  obtain ⟨p, lo, hi, rfl⟩ := exists_append_pair hlen
  exact ⟨p, lo, hi, rfl, (crcVerify_append_pair poly p lo hi).1 h⟩

theorem crc16_eq_zero_of_crcVerify {poly : Half} {f : List Byte} (h : crcVerify poly f = true) :
    crc16 poly f = 0#16 := by
  obtain ⟨p, lo, hi, rfl, hp⟩ := exists_of_crcVerify h
  rw [crc16_append_pair, hp, BitVec.xor_self, crcBits_zero]

/-! ### What a bit step can lose (R87, R88) -/

/-- Where POLY_R has a 1 and the register a 0 to shift there, the result tells the bit that left: only zero steps to
zero. -/
theorem eq_zero_of_crcBit_eq_zero {poly c : Half} {h : Nat} (hpoly : poly.getLsbD h = true)
    (hc : c.getLsbD (h + 1) = false) (hstep : crcBit poly c = 0#16) : c = 0#16 := by
  have hbit : ∀ i, (c.getLsbD (i + 1) ^^ (c.getLsbD 0 && poly.getLsbD i)) = false := fun i => by
    rw [← getLsbD_crcBit, hstep]; exact BitVec.getLsbD_zero
  have hleft : c.getLsbD 0 = false := by
    simpa only [hpoly, hc, Bool.and_true, Bool.false_xor] using hbit h
  apply BitVec.eq_of_getLsbD_eq
  intro i _
  rw [BitVec.getLsbD_zero]
  cases i with
  | zero => exact hleft
  | succ i => simpa only [hleft, Bool.false_and, Bool.xor_false] using hbit i

/-- With the top bit of POLY_R set, bit steps lose nothing. -/
theorem eq_zero_of_crcBits_eq_zero {poly c : Half} (hpoly : poly.getLsbD 15 = true) {n : Nat}
    (h : crcBits poly n c = 0#16) : c = 0#16 := by
  induction n generalizing c with
  | zero => exact h
  | succ n ih => exact eq_zero_of_crcBit_eq_zero hpoly (BitVec.getLsbD_of_ge c 16 (by decide)) (ih h)

/-- The register is a single bit still on its way to bit 0, or is not 0 and has nothing above `h`. With `h` the top bit
of POLY_R every bit step keeps this. -/
def NeverClears (h : Nat) (c : Half) : Prop :=
  (∃ k < 16, c = BitVec.twoPow 16 k) ∨ (c ≠ 0#16 ∧ ∀ i, h < i → c.getLsbD i = false)

theorem NeverClears.ne_zero {h : Nat} {c : Half} (hc : NeverClears h c) : c ≠ 0#16 := by
  obtain ⟨k, hk, rfl⟩ | ⟨hne, -⟩ := hc
  · intro h0
    simpa [hk] using congrArg (BitVec.getLsbD · k) h0
  · exact hne

theorem crcBit_twoPow_zero (poly : Half) : crcBit poly (BitVec.twoPow 16 0) = poly := by
  apply BitVec.eq_of_getLsbD_eq
  intro i _
  simp [getLsbD_crcBit]

theorem crcBit_twoPow_succ (poly : Half) {k : Nat} (hk : k + 1 < 16) :
    crcBit poly (BitVec.twoPow 16 (k + 1)) = BitVec.twoPow 16 k := by
  apply BitVec.eq_of_getLsbD_eq
  intro i _
  simp [getLsbD_crcBit, hk, Nat.lt_of_succ_lt hk]

theorem NeverClears.crcBit {poly : Half} {h : Nat} (htop : poly.getLsbD h = true)
    (habove : ∀ i, h < i → poly.getLsbD i = false) {c : Half} (hc : NeverClears h c) :
    NeverClears h (crcBit poly c) := by
  obtain ⟨_ | k, hk, rfl⟩ | ⟨hne, hc⟩ := hc
  · rw [crcBit_twoPow_zero]
    exact .inr ⟨by rintro rfl; simp at htop, habove⟩
  · rw [crcBit_twoPow_succ poly hk]
    exact .inl ⟨k, Nat.lt_of_succ_lt hk, rfl⟩
  · refine .inr ⟨mt (eq_zero_of_crcBit_eq_zero htop (hc _ h.lt_succ_self)) hne, fun i hi => ?_⟩
    rw [getLsbD_crcBit, hc (i + 1) (Nat.lt_succ_of_lt hi), habove i hi, Bool.and_false, Bool.xor_false]

theorem NeverClears.crcBits {poly : Half} {h : Nat} (htop : poly.getLsbD h = true)
    (habove : ∀ i, h < i → poly.getLsbD i = false) (n : Nat) {c : Half} (hc : NeverClears h c) :
    NeverClears h (crcBits poly n c) := by
  induction n generalizing c with
  | zero => exact hc
  | succ n ih => exact ih (hc.crcBit htop habove)

theorem exists_top_bit {poly : Half} (h : poly ≠ 0#16) :
    ∃ k, poly.getLsbD k = true ∧ ∀ i, k < i → poly.getLsbD i = false :=
  Nat.exists_most_significant_bit fun h0 => h (BitVec.eq_of_toNat_eq h0)

/-- No number of bit steps clears a single bit, whichever polynomial but 0 they use. -/
theorem crcBits_twoPow_ne_zero {poly : Half} (hpoly : poly ≠ 0#16) (n : Nat) {k : Nat} (hk : k < 16) :
    crcBits poly n (BitVec.twoPow 16 k) ≠ 0#16 := by
  obtain ⟨h, htop, habove⟩ := exists_top_bit hpoly
  have hsingle : NeverClears h (BitVec.twoPow 16 k) := .inl ⟨k, hk, rfl⟩
  exact (hsingle.crcBits htop habove n).ne_zero

/-! ### A turned byte and the checksum (R88) -/

/-- A difference in the register comes out of a fold as the bit steps of all its bytes. -/
theorem foldl_crcByte_xor (poly c d : Half) (s : List Byte) :
    s.foldl (crcByte poly) (c ^^^ d) = s.foldl (crcByte poly) c ^^^ crcBits poly (8 * s.length) d := by
  induction s generalizing c d with
  | nil => rfl
  | cons b s ih =>
    rw [List.foldl_cons, crcByte_xor, ih, ← crcBits_add, List.foldl_cons, List.length_cons, Nat.mul_succ,
      Nat.add_comm 8]

/-- A difference in one byte comes out of the checksum as the bit steps of the bytes from that one on. -/
theorem crc16_append_xor_cons (poly : Half) (p q : List Byte) (b e : Byte) :
    crc16 poly (p ++ (b ^^^ e) :: q) =
      crc16 poly (p ++ b :: q) ^^^ crcBits poly (8 * (b :: q).length) (e.setWidth 16) := by
  rw [crc16, crc16, List.foldl_append, List.foldl_append, List.foldl_cons, crcByte_xor_byte, ← List.foldl_cons,
    foldl_crcByte_xor]

theorem DiffersInOneBit.exists_append_cons {f g : List Byte} (h : DiffersInOneBit f g) :
    ∃ p b q j, j < 8 ∧ f = p ++ b :: q ∧ g = p ++ (b ^^^ BitVec.twoPow 8 j) :: q := by
  obtain ⟨k, j, hk, hj, rfl⟩ := h
  refine ⟨f.take k, f[k], f.drop (k + 1), j, hj, ?_, ?_⟩
  · rw [← List.drop_eq_getElem_cons hk, List.take_append_drop]
  · rw [List.set_eq_take_append_cons_drop, if_pos hk, List.getD_eq_getElem _ _ hk]

theorem setWidth_twoPow {j : Nat} (h : j < 8) : (BitVec.twoPow 8 j).setWidth 16 = BitVec.twoPow 16 j := by
  apply BitVec.eq_of_getLsbD_eq
  intro i _
  simp only [BitVec.getLsbD_setWidth, BitVec.getLsbD_twoPow]
  grind

/-- Every single-bit error changes the checksum of the whole sequence. -/
theorem crc16_ne_of_differsInOneBit {poly : Half} (hpoly : poly ≠ 0#16) {f g : List Byte} (h : DiffersInOneBit f g) :
    crc16 poly g ≠ crc16 poly f := by
  obtain ⟨p, b, q, j, hj, rfl, rfl⟩ := h.exists_append_cons
  rw [crc16_append_xor_cons, setWidth_twoPow hj]
  intro heq
  exact crcBits_twoPow_ne_zero hpoly _ (Nat.lt_trans hj (by decide)) (by simpa using heq)

/-! ### The commands (R82 to R85, R92) -/

theorem exec_bufClr (s : State) :
    exec .bufClr s = .next (({ s.clearResponse with len := 0 } : State).finish 0x1#4 (.success 0#32)) := rfl

theorem exec_crcInit (s : State) :
    exec .crcInit s = .next (({ s with crc := 0xFFFF#16 } : State).finish 0x4#4 (.success 0x0000FFFF#32)) := rfl

theorem exec_crcUpdate (b : Byte) (s : State) :
    exec (.crcUpdate b) s =
      .next (({ s with crc := crcByte s.cfg.polyR s.crc b } : State).finish 0x5#4
        (.success ((crcByte s.cfg.polyR s.crc b).setWidth 32))) := rfl

theorem exec_crcCompute (s : State) :
    exec .crcCompute s =
      .next (({ s with crc := crc16 s.cfg.polyR s.content } : State).finish 0x6#4
        (.success ((crc16 s.cfg.polyR s.content).setWidth 32))) := rfl

theorem exec_crcVerify (s : State) :
    exec .crcVerify s =
      .next (s.finish 0x7#4 (.success (if crcVerify s.cfg.polyR s.content then 1#32 else 0#32))) := rfl

/-- The outcome of a recorded command, with what its end writes spelled out (R19, R58). -/
theorem next_finish_recorded {op : Nibble} (ho : recorded op = true) (s : State) (r : Response) :
    (.next (s.finish op r) : Host.Outcome State Fault Refusal) = .next { s with
      st := { s.st with lastOp := op, ok := r.ok, err := r.err }
      rsps := r :: s.rsps } :=
  congrArg Host.Outcome.next (State.finish_recorded ho s r)

/-- A malformed word of a recorded opcode leaves its record and its response alone (R64, R96). -/
theorem step_of_malformed_recorded {w : Half} {s : State} {es : List PortEvent} (hv : s.cfg.valid = true)
    (hi : s.issue = .command w :: es) (hwf : (fieldsOf w).wf = false) (ho : recorded (fieldsOf w).op = true) :
    step s = .next { s with
      issue := es, st := { s.st with ok := false, err := 8#4, lastOp := (fieldsOf w).op },
      rsps := ⟨false, 8#4, 0#32⟩ :: s.rsps } := by
  obtain ⟨hmalformed, -⟩ := malformedWordIsIllegalCommand w
  obtain ⟨-, hstep⟩ := hmalformed hwf
  rw [hstep s es hv hi, if_neg]
  intro hunrecorded
  simp [recorded_eq_false_iff.2 hunrecorded] at ho

theorem wf_of_rsv_ne_zero {c : RawCommand} (h : c.rsv ≠ 0#4) : c.wf = false := by
  simp [RawCommand.wf, RawCommand.reservedZero, h]

theorem wf_of_unused_arg {c : RawCommand} (hop : c.takesOperand = false) (h : c.arg ≠ 0#8) : c.wf = false := by
  simp [RawCommand.wf, RawCommand.operandAllowed, hop, h]

/-! ### Runs of presented commands (R67, R89) -/

/-- A run of `m + n` steps is one of `m` steps and then one of `n`. -/
theorem run_add {m : Nat} {s t : State} (n : Nat) (h : run m s = .next t) : run (m + n) s = run n t := by
  induction m generalizing s with
  | zero => cases h; rw [Nat.zero_add]
  | succ m ih =>
    rw [Nat.succ_add]
    simp only [run] at h ⊢
    split at h
    · next u hu => simp only [ih h]
    all_goals cases h

/-- With commands at the port, a step runs the first of them. -/
theorem step_presented_cons {s : State} (hv : s.cfg.valid = true) {i : Instr} {is : List Instr}
    (hi : s.issue = presented (i :: is)) : step s = exec i { s with issue := presented is } :=
  (step_of_issue hv hi).trans (runWord_of_decode_ok (decode_encode i) _)

/-- CRC.UPDATE of each byte folds the bytes into CRC (R83). -/
theorem run_crcUpdates {bs : List Byte} {s : State} (hv : s.cfg.valid = true)
    (hi : s.issue = presented (bs.map .crcUpdate)) :
    ∃ t, run bs.length s = .next t ∧ t.crc = bs.foldl (crcByte s.cfg.polyR) s.crc := by
  induction bs generalizing s with
  | nil => exact ⟨s, rfl, rfl⟩
  | cons b bs ih =>
    rw [List.length_cons, run_succ _ ((step_presented_cons hv hi).trans (exec_crcUpdate b _))]
    exact ih hv rfl

/-- BUF.PUSH of a byte that has room appends it to the content (R93). -/
theorem step_bufPush {b : Byte} {is : List Instr} {s : State} (hv : s.cfg.valid = true) (hm : s.mem.wf)
    (hfit : s.len < s.cfg.frameMax) (hi : s.issue = presented (.bufPush b :: is)) :
    ∃ t, step s = .next t ∧ t.cfg = s.cfg ∧ t.mem.wf ∧ t.len = s.len + 1 ∧ t.issue = presented is ∧
      t.content = s.content ++ [b] :=
  ⟨_, (step_presented_cons hv hi).trans (exec_bufPush_of_lt (s := { s with issue := presented is }) hfit b), rfl,
    Memory.wf_writeBytes hm _ _, rfl, rfl, Memory.readBytes_writeBytes_append hm s.len [b]⟩

/-- BUF.PUSH of each byte appends the bytes to the content, where they have room (R93). -/
theorem run_bufPushes {bs : List Byte} {is : List Instr} {s : State} (hv : s.cfg.valid = true) (hm : s.mem.wf)
    (hfit : s.len + bs.length ≤ s.cfg.frameMax) (hi : s.issue = presented (bs.map .bufPush ++ is)) :
    ∃ t, run bs.length s = .next t ∧ t.cfg = s.cfg ∧ t.issue = presented is ∧ t.content = s.content ++ bs := by
  induction bs generalizing s with
  | nil => exact ⟨s, rfl, rfl, hi, (List.append_nil _).symm⟩
  | cons b bs ih =>
    rw [List.length_cons] at hfit
    obtain ⟨u, hstep, hcfg, hm', hlen, hissue, hcontent⟩ := step_bufPush hv hm (by omega) hi
    obtain ⟨t, hrun, hcfg', hissue', hcontent'⟩ := ih (hcfg ▸ hv) hm' (by rw [hcfg, hlen]; omega) hissue
    refine ⟨t, (run_succ _ hstep).trans hrun, hcfg'.trans hcfg, hissue', ?_⟩
    rw [hcontent', hcontent, List.append_assoc, List.singleton_append]

/-- `CRC.STREAM` leaves the checksum of its bytes in CRC (R67, R89). -/
theorem run_stream {s : State} (hv : s.cfg.valid = true) (bs : List Byte) :
    ∃ t, run (bs.length + 1) { s with issue := presented (streamCmds bs) } = .next t ∧
      t.crc = crc16 s.cfg.polyR bs := by
  have hinit := step_presented_cons (s := { s with issue := presented (streamCmds bs) }) hv rfl
  rw [run_succ _ (hinit.trans (exec_crcInit _))]
  exact run_crcUpdates hv rfl

/-- `LOAD` of bytes that fit leaves them as the content, whatever it was (R67). -/
theorem run_load {s : State} (hv : s.cfg.valid = true) (hm : s.mem.wf) {bs : List Byte}
    (hfit : bs.length ≤ s.cfg.frameMax) (is : List Instr) :
    ∃ t, run (bs.length + 1) { s with issue := presented (loadCmds bs ++ is) } = .next t ∧ t.cfg = s.cfg ∧
      t.issue = presented is ∧ t.content = bs := by
  have hclear := step_presented_cons (s := { s with issue := presented (loadCmds bs ++ is) }) hv rfl
  rw [run_succ _ (hclear.trans (exec_bufClr _))]
  exact run_bufPushes hv hm (by simpa using hfit) rfl

/-- `LOAD` and then CRC.COMPUTE (R89). -/
theorem run_load_crcCompute {s : State} (hv : s.cfg.valid = true) (hm : s.mem.wf) {bs : List Byte}
    (hfit : bs.length ≤ s.cfg.frameMax) :
    ∃ t, run (bs.length + 2) { s with issue := presented (loadCmds bs ++ [.crcCompute]) } = .next t ∧
      t.crc = crc16 s.cfg.polyR bs ∧ t.content = bs := by
  obtain ⟨u, hload, hcfg, hissue, hcontent⟩ := run_load hv hm hfit [.crcCompute]
  have hstep := (step_presented_cons (hcfg ▸ hv) hissue).trans (exec_crcCompute _)
  refine ⟨_, (run_add 1 hload).trans (run_succ 0 hstep), ?_, hcontent⟩
  rw [← hcfg, ← hcontent]; rfl

/-! ### The obligations -/

/-- Settles O24: the low byte is looked up in the table, the high byte is shifted down. -/
theorem tableFormAgrees : Obligations.TableFormAgrees := crcByteByTable_eq_crcByte

/-- Settles O25: a sequence with a trailing checksum folds to the bit steps of the difference of the two, and with the
top bit of POLY_R set those are 0 only where the difference is. -/
theorem zeroResidue : Obligations.ZeroResidue := by
  refine ⟨fun poly p => ?_, fun _ _ => crc16_eq_zero_of_crcVerify, fun poly f hpoly hlen h => ?_, by decide +kernel⟩
  · exact crc16_eq_zero_of_crcVerify ((crcVerify_append_pair poly p _ _).2 (join16_lo8_hi8 _).symm)
  · obtain ⟨p, lo, hi, rfl⟩ := exists_append_pair hlen
    rw [crc16_append_pair] at h
    exact (crcVerify_append_pair poly p lo hi).2 (BitVec.xor_eq_zero_iff.1 (eq_zero_of_crcBits_eq_zero hpoly h))

/-- Settles O26: a verified sequence has checksum 0, and a single-bit error turns it. -/
theorem singleBitErrorsAreCaught : Obligations.SingleBitErrorsAreCaught := by
  intro poly f g hpoly hf hdiff
  refine Bool.eq_false_of_not_eq_true fun hg => crc16_ne_of_differsInOneBit hpoly hdiff ?_
  rw [crc16_eq_zero_of_crcVerify hg, crc16_eq_zero_of_crcVerify hf]

/-- Settles O27: CRC.UPDATE by CRC.UPDATE, and BUF.PUSH by BUF.PUSH. -/
theorem streamAndBlockAgree : Obligations.StreamAndBlockAgree :=
  fun _ bs hv => ⟨run_stream hv bs, fun hm hfit => run_load_crcCompute hv hm hfit⟩

/-- Settles O17: a bit step read at bit `i`, inside the register or past it. -/
theorem crcBitStepByBits : Obligations.CrcBitStepByBits := fun poly c i _ => getLsbD_crcBit poly c i

/-- Settles O18: the bit steps of a byte step are an iterate, and the fold takes the last byte last. -/
theorem checksumIsAFoldOfByteSteps : Obligations.ChecksumIsAFoldOfByteSteps :=
  ⟨fun poly _ _ => congrFun (crcBits_eq_iterate poly 8) _, fun poly s b => ⟨rfl, crc16_append_singleton poly s b⟩⟩

/-- Settles O19: the two clauses of `crc_verify`, the second with the two bytes joined. -/
theorem verifyComparesTrailingChecksum : Obligations.VerifyComparesTrailingChecksum :=
  fun poly => ⟨fun _ => crcVerify_of_short poly, crcVerify_append_pair poly⟩

/-- Settles O20: CRC is set, ST records; a word of this opcode with another field set is malformed. -/
theorem crcInitSetsAllOnes : Obligations.CrcInitSetsAllOnes := by
  refine ⟨decode_encode .crcInit, fun s => ?_, fun w s es hv hi hop hbad => ?_⟩
  · exact (exec_crcInit s).trans (next_finish_recorded rfl _ _)
  · have hmalformed : (fieldsOf w).wf = false :=
      hbad.elim wf_of_rsv_ne_zero (wf_of_unused_arg (by simp [RawCommand.takesOperand, hop]))
    exact hop ▸ step_of_malformed_recorded hv hi hmalformed (by rw [hop]; rfl)

/-- Settles O21: CRC takes the byte step, ST records; a word of this opcode with RSV set is malformed. -/
theorem crcUpdateFoldsOneByte : Obligations.CrcUpdateFoldsOneByte := by
  refine ⟨fun b => decode_encode (.crcUpdate b), fun b s => ?_, fun w s es hv hi hop hrsv => ?_⟩
  · exact (exec_crcUpdate b s).trans (next_finish_recorded rfl _ _)
  · exact hop ▸ step_of_malformed_recorded hv hi (wf_of_rsv_ne_zero hrsv) (by rw [hop]; rfl)

/-- Settles O22: the command ends in success whichever DATA it reports. -/
theorem crcVerifyReportsInData : Obligations.CrcVerifyReportsInData :=
  ⟨decode_encode .crcVerify, fun s => (exec_crcVerify s).trans (next_finish_recorded rfl s _)⟩

/-- Settles O23: CRC takes the checksum, ST records. -/
theorem crcComputeTakesTheWholeContent : Obligations.CrcComputeTakesTheWholeContent :=
  ⟨decode_encode .crcCompute, fun s => (exec_crcCompute s).trans (next_finish_recorded rfl _ _)⟩

end Sys2Proof.Machine
end

section
/-! SUPPORT. The word of a malformed command that is not recorded, the selector a byte names and what REG.READ answers,
and with them the statements of the family of `41_buffer_system.md`: BUF.CLR, BUF.PUSH, BUF.READ (R92 to R94), the two
resets (R95, R186), REG.READ (R97). -/

namespace Sys2Proof.Machine

/-! ### Commands that are not recorded (R19) -/

/-- The outcome of a command that is not recorded is its response word alone (R19, R58). -/
theorem next_finish_not_recorded {op : Nibble} (ho : recorded op = false) (s : State) (r : Response) :
    (.next (s.finish op r) : Host.Outcome State Fault Refusal) = .next { s with rsps := r :: s.rsps } :=
  congrArg Host.Outcome.next (State.finish_not_recorded ho s r)

/-- A malformed word of an opcode that is not recorded leaves its response alone (R64, R94, R97). -/
theorem step_of_malformed_not_recorded {w : Half} {s : State} {es : List PortEvent} (hv : s.cfg.valid = true)
    (hi : s.issue = .command w :: es) (hwf : (fieldsOf w).wf = false) (ho : recorded (fieldsOf w).op = false) :
    step s = .next { s with issue := es, rsps := ⟨false, 8#4, 0#32⟩ :: s.rsps } := by
  obtain ⟨e, hd⟩ := decode_error_of_malformed hwf
  calc step s = runWord w { s with issue := es } := step_of_issue hv hi
    _ = .next (({ s with issue := es } : State).finish (opField w) (.error .illegalOp)) := runWord_of_decode_error hd _
    _ = _ := next_finish_not_recorded ho _ _

/-! ### The selector space (R24) -/

theorem toNat_hiNib (b : Byte) : (hiNib b).toNat = b.toNat / 16 := by
  rw [hiNib, BitVec.extractLsb'_toNat, Nat.shiftRight_eq_div_pow]
  omega

theorem toNat_loNib (b : Byte) : (loNib b).toNat = b.toNat % 16 := by
  simp [loNib, BitVec.extractLsb'_toNat]

/-- In the low row the selectors end at V_CNT's. -/
theorem lowSelector_eq_none {n : Nibble} (h : 9 ≤ n.toNat) : lowSelector n = none := by
  unfold lowSelector
  split
  case h_10 => rfl
  all_goals omega

/-- What is reserved: the low row behind V_CNT, and every row past the five of value slots. -/
theorem decodeSelector_eq_none {r : Byte} (h : (0x09 ≤ r.toNat ∧ r.toNat ≤ 0x0F) ∨ 0x60 ≤ r.toNat) :
    decodeSelector r = none := by
  have hhi := toNat_hiNib r
  unfold decodeSelector
  split
  case h_1 => exact lowSelector_eq_none (by rw [toNat_loNib]; omega)
  case h_7 => rfl
  all_goals omega

/-- The five rows of value slots. -/
theorem decodeSelector_slot (i : Fin 16) :
    decodeSelector (BitVec.ofNat 8 (0x10 + i)) = some (.vRaw i) ∧
    decodeSelector (BitVec.ofNat 8 (0x20 + i)) = some (.vDiv i) ∧
    decodeSelector (BitVec.ofNat 8 (0x30 + i)) = some (.vInt i) ∧
    decodeSelector (BitVec.ofNat 8 (0x40 + i)) = some (.vFrac i) ∧
    decodeSelector (BitVec.ofNat 8 (0x50 + i)) = some (.vQty i) := by
  revert i; decide

/-! ### The views of a value slot (R23) -/

@[simp] theorem viewInt_zero (raw : Data) : viewInt raw 0#32 = 0#32 := if_pos rfl

@[simp] theorem viewFrac_zero (raw : Data) : viewFrac raw 0#32 = 0#32 := if_pos rfl

theorem toNat_viewInt {div : Data} (h : div ≠ 0#32) (raw : Data) : (viewInt raw div).toNat = raw.toNat / div.toNat := by
  rw [viewInt, if_neg h, BitVec.toNat_ofNat]
  exact Nat.mod_eq_of_lt ((Nat.div_le_self _ _).trans_lt raw.isLt)

theorem toNat_viewFrac {div : Data} (h : div ≠ 0#32) (raw : Data) :
    (viewFrac raw div).toNat = raw.toNat % div.toNat := by
  rw [viewFrac, if_neg h, BitVec.toNat_ofNat]
  exact Nat.mod_eq_of_lt ((Nat.mod_le _ _).trans_lt raw.isLt)

/-- Where the divisor is not 0, the two views are quotient and remainder. -/
theorem viewInt_mul_add_viewFrac {div : Data} (h : div ≠ 0#32) (raw : Data) :
    raw.toNat = (viewInt raw div).toNat * div.toNat + (viewFrac raw div).toNat ∧
      (viewFrac raw div).toNat < div.toNat := by
  have hpos : 0 < div.toNat := Nat.pos_of_ne_zero (by simpa [BitVec.toNat_eq] using h)
  rw [toNat_viewInt h, toNat_viewFrac h]
  exact ⟨(Nat.div_add_mod' _ _).symm, Nat.mod_lt _ hpos⟩

/-- While the response is withheld its registers read 0 (R20). -/
theorem State.readSelector_of_withheld {s : State} (h : s.resp = .zero) :
    s.readSelector .rAddr = 0#32 ∧ s.readSelector .rStat = 0#32 ∧ s.readSelector .pLen = 0#32 := by
  simp [State.readSelector, h, RespRegs.zero]

/-! ### REG.READ (R97) -/

/-- REG.READ of a selector answers what the selector reads, and that is all it does. -/
theorem exec_regRead_of_selector {r : Byte} {x : Selector} {s : State} {v : Data} (hx : decodeSelector r = some x)
    (hv : s.readSelector x = v) : exec (.regRead r) s = .next { s with rsps := ⟨true, 0#4, v⟩ :: s.rsps } := by
  simp only [exec, execRegRead, hx, hv]
  exact next_finish_not_recorded recorded_regRead s _

/-- REG.READ of a reserved selector answers IllegalOp, and that is all it does. -/
theorem exec_regRead_of_reserved {r : Byte} (hx : decodeSelector r = none) (s : State) :
    exec (.regRead r) s = .next { s with rsps := ⟨false, 8#4, 0#32⟩ :: s.rsps } := by
  simp only [exec, execRegRead, hx]
  exact next_finish_not_recorded recorded_regRead s _

/-! ### The obligations -/

/-- Settles O13: each selector is read off the selector space, the views are quotient and remainder, and the invariant
holds the response registers at 0 while R_VALID is 0. -/
theorem regReadSelectors : Obligations.RegReadSelectors := by
  refine ⟨fun r => decode_encode (.regRead r), fun s => ?_, fun w s es hv hi hop hrsv => ?_⟩
  · have hkind {k : VKind} (hk : s.val.kind = k) : s.readSelector .vKind = k.code.setWidth 32 := hk ▸ rfl
    refine ⟨exec_regRead_of_selector rfl rfl, exec_regRead_of_selector rfl rfl, exec_regRead_of_selector rfl rfl,
      exec_regRead_of_selector rfl rfl, exec_regRead_of_selector rfl rfl, exec_regRead_of_selector rfl rfl,
      exec_regRead_of_selector rfl rfl, fun hk => exec_regRead_of_selector rfl (hkind hk),
      fun hk => exec_regRead_of_selector rfl (hkind hk), fun hk => exec_regRead_of_selector rfl (hkind hk),
      fun hk => exec_regRead_of_selector rfl (hkind hk), exec_regRead_of_selector rfl rfl, fun i => ?_,
      fun r hr => exec_regRead_of_reserved (decodeSelector_eq_none hr) s, fun hs hr => ?_⟩
    · obtain ⟨hraw, hdiv, hint, hfrac, hqty⟩ := decodeSelector_slot i
      refine ⟨exec_regRead_of_selector hraw rfl, exec_regRead_of_selector hdiv rfl, exec_regRead_of_selector hqty rfl,
        fun hne => ?_, fun hzero => ?_⟩
      · exact ⟨_, _, exec_regRead_of_selector hint rfl, exec_regRead_of_selector hfrac rfl,
          viewInt_mul_add_viewFrac hne _⟩
      · exact ⟨exec_regRead_of_selector hint (by simp [State.readSelector, hzero]),
          exec_regRead_of_selector hfrac (by simp [State.readSelector, hzero])⟩
    · obtain ⟨haddr, hstat, hplen⟩ := State.readSelector_of_withheld (hs.respWithheld hr)
      exact ⟨exec_regRead_of_selector rfl haddr, exec_regRead_of_selector rfl hstat,
        exec_regRead_of_selector rfl hplen⟩
  · exact step_of_malformed_not_recorded hv hi (wf_of_rsv_ne_zero hrsv) (by rw [hop]; rfl)

/-- Settles O11: on a full buffer the command raises Overflow; below that it writes the one byte behind the content. -/
theorem bufPushAppendsOneByte : Obligations.BufPushAppendsOneByte := by
  refine ⟨fun b => decode_encode (.bufPush b), fun b s hm _ => ⟨fun hfull => ?_, fun hlt => ?_⟩⟩
  · exact (exec_bufPush_of_full hfull b).trans (next_finish_recorded recorded_bufPush _ _)
  · refine ⟨_, (exec_bufPush_of_lt hlt b).trans (next_finish_recorded recorded_bufPush _ _), ?_, fun a ha => ?_, rfl⟩
    · exact Memory.readBytes_writeBytes_append hm s.len [b]
    · exact (Memory.read_writeBytes hm _ _ _).trans (if_neg (by simp; omega))

/-- Settles O12: BUF.READ tests its index against LEN; its opcode is not recorded, nor is that of a malformed word. -/
theorem bufReadChangesNothing : Obligations.BufReadChangesNothing := by
  refine ⟨fun i => decode_encode (.bufRead i), fun i s => ?_, fun w s es hv hi hop hrsv => ?_⟩
  · split
    · next hle => exact (exec_bufRead_of_le hle).trans (next_finish_not_recorded recorded_bufRead s _)
    · next hlt =>
      exact (exec_bufRead_of_lt (Nat.lt_of_not_le hlt)).trans (next_finish_not_recorded recorded_bufRead s _)
  · exact step_of_malformed_not_recorded hv hi (wf_of_rsv_ne_zero hrsv) (by rw [hop]; rfl)

/-- Settles O9: both reset the block; RST is then recorded in ST, and the hardware reset input is not. -/
theorem twoResetsDifferInStatusAlone : Obligations.TwoResetsDifferInStatusAlone := by
  refine ⟨decode_encode .rst, fun s => ⟨?_, by decide, fun es hv hi => ?_⟩⟩
  · exact next_finish_recorded recorded_rst s.resetBlock _
  · exact step_of_issue hv hi

/-- Settles O10: the bytes stay, none of them in the content, and ST records. -/
theorem bufClrEmptiesTheBuffer : Obligations.BufClrEmptiesTheBuffer :=
  ⟨decode_encode .bufClr, fun s => ⟨_, (exec_bufClr s).trans (next_finish_recorded recorded_bufClr _ _), rfl, rfl⟩⟩

end Sys2Proof.Machine
end

section
/-! SUPPORT. `frame_encode` and `frame_decode` check by check, an encoded frame taken apart, a single-bit error in a
frame, and with them the statements of the family of `42_frame_codec.md`: FRM.ENCODE (R101, R104), FRM.DECODE (R105 to
R107), the round trip (R110), single-bit errors (R111). -/

namespace Sys2Proof.Machine

/-! ### `frame_encode` (R101) -/

/-- What R101 asks of a request with `n` parameter bytes: a schema of that length, and no broadcast of a value-reading
command. -/
def GoodRequest (cfg : Config) (a c : Byte) (n : Nat) : Prop :=
  ∃ x, cfg.schema c = some x ∧ n = x.reqPlen ∧ ¬(a = 0#8 ∧ x.valueRead = true)

theorem frameEncode_of_goodRequest {cfg : Config} {a c : Byte} {p : List Byte} (h : GoodRequest cfg a c p.length) :
    frameEncode cfg a c p = .ok (appendChecksum cfg.polyR (a :: c :: p)) := by
  obtain ⟨x, hx, hlen, hcast⟩ := h
  simp only [frameEncode, hx]
  rw [if_neg (not_not.2 hlen), if_neg hcast]

theorem frameEncode_of_not_goodRequest {cfg : Config} {a c : Byte} {p : List Byte}
    (h : ¬GoodRequest cfg a c p.length) : frameEncode cfg a c p = .error .constructionError := by
  cases hx : cfg.schema c with
  | none => simp only [frameEncode, hx]
  | some x =>
    simp only [frameEncode, hx]
    by_cases hlen : p.length = x.reqPlen
    · rw [if_neg (not_not.2 hlen), if_pos (by_contra fun hcast => h ⟨x, hx, hlen, hcast⟩)]
    · exact if_pos hlen

/-- What `frame_encode` gives is the request with its checksum behind it. -/
theorem eq_appendChecksum_of_frameEncode_ok {cfg : Config} {a c : Byte} {p f : List Byte}
    (h : frameEncode cfg a c p = .ok f) : f = appendChecksum cfg.polyR (a :: c :: p) := by
  by_cases hgood : GoodRequest cfg a c p.length
  · cases (frameEncode_of_goodRequest hgood).symm.trans h; rfl
  · cases (frameEncode_of_not_goodRequest hgood).symm.trans h

/-! ### A frame taken apart (R80, R102) -/

@[simp] theorem length_appendChecksum (poly : Half) (q : List Byte) : (appendChecksum poly q).length = q.length + 2 :=
  List.length_append

theorem crcVerify_appendChecksum (poly : Half) (q : List Byte) : crcVerify poly (appendChecksum poly q) = true :=
  (crcVerify_append_pair poly q _ _).2 (join16_lo8_hi8 _).symm

theorem frameSplit_appendChecksum (poly : Half) (a c : Byte) (p : List Byte) :
    frameSplit (appendChecksum poly (a :: c :: p)) = (a, c, p) := by
  simp [frameSplit, appendChecksum, split16]

theorem State.content_eq_cons_cons {s : State} (h : 2 ≤ s.len) :
    s.content = s.content.getD 0 0#8 :: s.content.getD 1 0#8 :: s.content.drop 2 := by
  rw [← s.length_content] at h
  match hc : s.content with
  | [] | [_] => simp [hc] at h
  | a :: c :: p => rfl

/-! ### `frame_decode`, check by check (R105) -/

theorem frameDecode_of_short {cfg : Config} {f : List Byte} (h : f.length < 4) (c : Byte) :
    frameDecode cfg f c = .error .truncated := if_pos h

theorem frameDecode_of_mismatch {cfg : Config} {f : List Byte} (hlen : 4 ≤ f.length)
    (hcrc : crcVerify cfg.polyR f = false) (c : Byte) : frameDecode cfg f c = .error .checksumMismatch := by
  rw [frameDecode, if_neg (Nat.not_lt.2 hlen), if_pos hcrc]

/-- A frame that passed the first two checks is long enough and verifies. -/
theorem verified_of_frameDecode_ne {cfg : Config} {f : List Byte} {c : Byte}
    (htrunc : frameDecode cfg f c ≠ .error .truncated) (hcrc : frameDecode cfg f c ≠ .error .checksumMismatch) :
    4 ≤ f.length ∧ crcVerify cfg.polyR f = true := by
  have hlen : 4 ≤ f.length := Nat.le_of_not_lt fun hshort => htrunc (frameDecode_of_short hshort c)
  exact ⟨hlen, Bool.eq_true_of_not_eq_false fun hbad => hcrc (frameDecode_of_mismatch hlen hbad c)⟩

/-- The device's code is read off a verified frame alone (R107). -/
theorem crcVerify_of_frameDecode_nak {cfg : Config} {f : List Byte} {c k : Byte}
    (h : frameDecode cfg f c = .error (.nak k)) : crcVerify cfg.polyR f = true :=
  (verified_of_frameDecode_ne (c := c) (by simp [h]) (by simp [h])).2

section Verified
variable {cfg : Config} {f : List Byte} (hlen : 4 ≤ f.length) (hcrc : crcVerify cfg.polyR f = true)
include hlen hcrc

theorem frameDecode_of_nak {k : Byte} (hk : cfg.nakCode (f.getD 1 0#8) = some k) (c : Byte) :
    frameDecode cfg f c = .error (.nak k) := by
  rw [frameDecode, if_neg (Nat.not_lt.2 hlen), if_neg (by simp [hcrc])]
  simp only [hk]

theorem frameDecode_of_unknown {c : Byte} (hnak : cfg.nakCode (f.getD 1 0#8) = none) (hx : cfg.schema c = none) :
    frameDecode cfg f c = .error .unknownCommand := by
  rw [frameDecode, if_neg (Nat.not_lt.2 hlen), if_neg (by simp [hcrc])]
  simp only [hnak, hx]

theorem frameDecode_of_badLength {c : Byte} {x : Schema} (hnak : cfg.nakCode (f.getD 1 0#8) = none)
    (hx : cfg.schema c = some x) (hdlen : f.length - 4 ≠ x.respDlen) : frameDecode cfg f c = .error .badLength := by
  rw [frameDecode, if_neg (Nat.not_lt.2 hlen), if_neg (by simp [hcrc])]
  simp only [hnak, hx]
  exact if_pos hdlen

end Verified

/-! ### Single-bit errors in a frame (R111) -/

theorem DiffersInOneBit.length_eq {f g : List Byte} (h : DiffersInOneBit f g) : g.length = f.length := by
  obtain ⟨k, b, -, -, rfl⟩ := h
  exact List.length_set

/-! ### The obligations -/

/-- Settles O29: a content of two bytes or more is a request; `frame_encode` accepts it exactly when it is good, and
then a legal configuration leaves room for the checksum. -/
theorem frmEncodeAppendsTheChecksum : Obligations.FrmEncodeAppendsTheChecksum := by
  refine ⟨decode_encode .frmEncode, fun s hv hm => ?_⟩
  intro a c good k
  have hplen : (s.content.drop 2).length = s.len - 2 := by simp
  constructor
  · intro hbad
    refine Eq.trans ?_ (next_finish_recorded recorded_frmEncode s.clearResponse (.error .constructionError))
    obtain hshort | hlong := Nat.lt_or_ge s.len 2
    · exact exec_frmEncode_of_short hshort
    · exact exec_frmEncode_of_error (State.content_eq_cons_cons hlong)
        (frameEncode_of_not_goodRequest fun hgood => hbad ⟨hlong, hplen ▸ hgood⟩)
  · rintro ⟨hlong, hgood⟩
    have hok : frameEncode s.cfg a c (s.content.drop 2) = .ok _ := frameEncode_of_goodRequest (hplen ▸ hgood)
    have hfit := length_of_frameEncode_ok hv hok
    refine ⟨_, (exec_frmEncode_of_ok (State.content_eq_cons_cons hlong) hok (by omega)).trans
      (next_finish_recorded recorded_frmEncode _ _), ?_, fun i hi hi' => ?_, rfl⟩
    · exact Memory.readBytes_writeBytes_append hm s.len (split16 k)
    · exact (Memory.read_writeBytes hm _ _ _).trans (if_neg (by simp [split16]; omega))

/-- Settles O32: the request with its checksum behind it verifies and splits into its parts, so of the conditions of
`frame_decode` only the status and the length are left. -/
theorem frameRoundTrip : Obligations.FrameRoundTrip := by
  intro cfg a c p f h
  obtain rfl := eq_appendChecksum_of_frameEncode_ok h
  have hverified := crcVerify_appendChecksum cfg.polyR (a :: c :: p)
  have hlen : (appendChecksum cfg.polyR (a :: c :: p)).length = p.length + 4 := length_appendChecksum _ _
  have hsplit := frameSplit_appendChecksum cfg.polyR a c p
  refine ⟨hverified, hlen, hsplit, fun c' => ?_⟩
  simp only [frameSplit, Prod.mk.injEq] at hsplit
  obtain ⟨haddr, hstat, hdata⟩ := hsplit
  rw [frameDecode_eq_ok_iff, haddr, hstat, hdata, hlen]
  simp [hverified, eq_comm]

/-- Settles O33: the frame verifies, so the turned one does not, and its length is the same. -/
theorem frameSingleBitError : Obligations.FrameSingleBitError := by
  intro cfg f g c hpoly htrunc hcrc hdiff
  obtain ⟨hlen, hverified⟩ := verified_of_frameDecode_ne htrunc hcrc
  exact frameDecode_of_mismatch (hdiff.length_eq ▸ hlen) (singleBitErrorsAreCaught _ f g hpoly hverified hdiff) c

/-- Settles O30: the checks one after the other. -/
theorem frameDecodeCheckOrder : Obligations.FrameDecodeCheckOrder := by
  refine fun cfg f c => ⟨fun hshort => frameDecode_of_short hshort c, fun hlen =>
    ⟨fun hbad => frameDecode_of_mismatch hlen hbad c, fun hcrc =>
      ⟨fun k hk => frameDecode_of_nak hlen hcrc hk c, fun hnak =>
        ⟨frameDecode_of_unknown hlen hcrc hnak, fun x hx =>
          ⟨frameDecode_of_badLength hlen hcrc hnak hx, fun hdlen => ?_⟩⟩⟩⟩⟩
  exact frameDecode_eq_ok_iff.2 ⟨hlen, hcrc, hnak, ⟨x, hx, hdlen⟩, rfl⟩

/-- Settles O31: FRM.DECODE follows `frame_decode`, and ST records its outcome; a decoded frame has the first two bytes
of the content as address and status. -/
theorem frmDecodeSetsTheResponse : Obligations.FrmDecodeSetsTheResponse := by
  refine ⟨fun c => decode_encode (.frmDecode c), fun c s => ⟨fun e he => ?_, fun r hr => ?_⟩⟩
  · refine ((exec_frmDecode_of_error he).trans (next_finish_recorded recorded_frmDecode _ _)).trans ?_
    cases e <;> rfl
  · refine ((exec_frmDecode_of_ok hr).trans (next_finish_recorded recorded_frmDecode _ _)).trans ?_
    obtain ⟨-, -, -, -, rfl⟩ := frameDecode_eq_ok_iff.1 hr
    rfl

/-- Settles O34: the error drops the response, so VAL.DECODE finds none; a Nak comes after the checksum check. -/
theorem failedDecodeExposesNoResponse : Obligations.FailedDecodeExposesNoResponse := by
  intro c s e he
  refine ⟨_, exec_frmDecode_of_error he, rfl, rfl, ⟨_, rfl, rfl, ?_, fun hne => ?_⟩, fun c' => ?_⟩
  · rintro k rfl
    exact ⟨crcVerify_of_frameDecode_nak he, rfl, rfl⟩
  · cases e with
    | nak k => exact absurd rfl (hne k)
    | truncated | checksumMismatch | badLength | badDigit | unknownCommand | constructionError | illegalOp | overflow
    | noFrame => exact ⟨rfl, rfl⟩
  · exact ⟨_, exec_valDecode_of_noFrame rfl c', rfl, rfl⟩

end Sys2Proof.Machine
end

section
/-! SUPPORT. Packed BCD, a field's raw as the number its digits write, `value_decode` check by check and field by
field, and with them the statements of the family of `43_value_decoder.md`: packed BCD (R117), VAL.DECODE (R118),
`value_decode` and its errors (R119, R126), fields (R120), the three layouts (R121, R122, R125), the bounds of a decoded
Measurement (R127). -/

namespace Sys2Proof.Machine

/-! ### Packed BCD (R117) -/

@[simp] theorem hiNib_append (hi lo : Nibble) : hiNib (hi ++ lo) = hi := BitVec.extractLsb'_append_eq_left

@[simp] theorem loNib_append (hi lo : Nibble) : loNib (hi ++ lo) = lo := BitVec.extractLsb'_append_eq_right

theorem bcdOk_iff (b : Byte) : bcdOk b = true ↔ (hiNib b).toNat ≤ 9 ∧ (loNib b).toNat ≤ 9 := by simp [bcdOk]

theorem bcd2_le_of_bcdOk {b : Byte} (h : bcdOk b = true) : bcd2 b ≤ 99 := by
  obtain ⟨hhi, hlo⟩ := (bcdOk_iff b).1 h
  unfold bcd2
  omega

/-! ### The digits of a field (R120) -/

theorem Enc.one_lt_base (e : Enc) : 1 < Enc.base e := by cases e <;> decide

theorem Enc.base_le (e : Enc) : Enc.base e ≤ 256 := by cases e <;> decide

theorem fieldOk_of_bin {d : FieldDesc} (h : d.enc = .bin) (x : List Byte) : fieldOk d x = true := by
  simp only [fieldOk, h]

theorem fieldOk_of_bcd {d : FieldDesc} (h : d.enc = .bcd) (x : List Byte) : fieldOk d x = x.all bcdOk := by
  simp only [fieldOk, h]

/-- Byte by byte, a BCD field is good when all its bytes are BCD. -/
theorem fieldOk_iff_of_bcd {d : FieldDesc} (h : d.enc = .bcd) {x : List Byte} (hx : x.length = d.width) :
    fieldOk d x = true ↔ ∀ k < d.width, ∃ b, x[k]? = some b ∧ bcdOk b = true := by
  rw [fieldOk_of_bcd h, List.all_eq_true, ← hx]
  constructor
  · exact fun hall k hk => ⟨x[k], List.getElem?_eq_getElem hk, hall _ (List.getElem_mem hk)⟩
  · intro hall b hb
    obtain ⟨k, hk, rfl⟩ := List.mem_iff_getElem.1 hb
    obtain ⟨b, hb, hok⟩ := hall k hk
    cases (List.getElem?_eq_getElem hk).symm.trans hb
    exact hok

/-- The bytes of a good field are digits of its encoding. -/
theorem digit_lt_base {d : FieldDesc} {x : List Byte} (hok : fieldOk d x = true) {b : Byte} (hb : b ∈ x) :
    Enc.digit d.enc b < Enc.base d.enc := by
  cases he : d.enc with
  | bin => exact b.isLt
  | bcd =>
    rw [fieldOk_of_bcd he, List.all_eq_true] at hok
    exact Nat.lt_succ_of_le (bcd2_le_of_bcdOk (hok b hb))

/-- The numbers of a field's bytes, the least significant first: `perm` lists where they stand. -/
def fieldDigits (d : FieldDesc) (x : List Byte) : List Nat := d.perm.map fun j => Enc.digit d.enc (x.getD j 0#8)

@[simp] theorem length_fieldDigits (d : FieldDesc) (x : List Byte) : (fieldDigits d x).length = d.perm.length :=
  List.length_map _

theorem fieldRaw_eq_ofDigits {d : FieldDesc} (h : d.perm.length = d.width) (x : List Byte) :
    fieldRaw d x = Nat.ofDigits (Enc.base d.enc) (fieldDigits d x) := by
  rw [fieldRaw, Nat.ofDigits_eq_sum_mapIdx]
  congr 1
  refine List.ext_getElem (by simp [h]) fun k hk _ => ?_
  have hk' : k < d.perm.length := by simpa [h] using hk
  simp [fieldDigits, hk']

/-- The digit of significance `k` in a number that its digits write. -/
theorem ofDigits_div_pow_mod {b : Nat} (hb : 0 < b) {l : List Nat} (hl : ∀ n ∈ l, n < b) {k n : Nat}
    (hk : l[k]? = some n) : Nat.ofDigits b l / b ^ k % b = n := by
  obtain ⟨hlen, rfl⟩ := List.getElem?_eq_some_iff.1 hk
  rw [Nat.ofDigits_div_pow_eq_ofDigits_drop k hb l hl, List.drop_eq_getElem_cons hlen, Nat.ofDigits_cons,
    Nat.add_mul_mod_self_left]
  exact Nat.mod_eq_of_lt (hl _ (List.getElem_mem hlen))

section Field
variable {d : FieldDesc} {x : List Byte} (hd : FieldLegal d) (hx : x.length = d.width)
include hd hx

/-- Every significance of a legal field has its byte, and that byte's number is the digit. -/
theorem exists_byte_of_significance {k : Nat} (hk : k < d.width) :
    ∃ j b, d.perm[k]? = some j ∧ x[j]? = some b ∧ (fieldDigits d x)[k]? = some (Enc.digit d.enc b) := by
  have hperm : k < d.perm.length := hd.permLen ▸ hk
  have hidx : d.perm[k] < x.length := hx ▸ hd.permIdx _ (List.getElem_mem hperm)
  exact ⟨d.perm[k], x[d.perm[k]], by simp, by simp, by simp [fieldDigits, hperm, hidx]⟩

theorem fieldDigits_lt_base (hok : fieldOk d x = true) : ∀ n ∈ fieldDigits d x, n < Enc.base d.enc := by
  intro n hn
  obtain ⟨j, hj, rfl⟩ := List.mem_map.1 hn
  have hidx : j < x.length := hx ▸ hd.permIdx j hj
  rw [List.getD_eq_getElem _ _ hidx]
  exact digit_lt_base hok (List.getElem_mem hidx)

theorem fieldRaw_lt_pow (hok : fieldOk d x = true) : fieldRaw d x < Enc.base d.enc ^ d.width := by
  rw [fieldRaw_eq_ofDigits hd.permLen]
  simpa [hd.permLen] using
    Nat.ofDigits_lt_base_pow_length (Enc.one_lt_base d.enc) (fieldDigits_lt_base hd hx hok)

/-- The raw of a good field has a digit for each significance, `k`'s the number of byte `perm[k]`, and no others. -/
theorem fieldRaw_digits (hok : fieldOk d x = true) :
    fieldRaw d x < Enc.base d.enc ^ d.width ∧ ∀ k < d.width, ∃ j b, d.perm[k]? = some j ∧ x[j]? = some b ∧
      fieldRaw d x / Enc.base d.enc ^ k % Enc.base d.enc = Enc.digit d.enc b := by
  refine ⟨fieldRaw_lt_pow hd hx hok, fun k hk => ?_⟩
  obtain ⟨j, b, hj, hb, hdigit⟩ := exists_byte_of_significance hd hx hk
  rw [fieldRaw_eq_ofDigits hd.permLen]
  exact ⟨j, b, hj, hb, ofDigits_div_pow_mod (Nat.zero_lt_of_lt (Enc.one_lt_base d.enc))
    (fieldDigits_lt_base hd hx hok) hdigit⟩

/-- Four digits below 256 fit a register (R120). -/
theorem fieldRaw_lt_register (hok : fieldOk d x = true) : fieldRaw d x < 2 ^ 32 :=
  calc fieldRaw d x < Enc.base d.enc ^ d.width := fieldRaw_lt_pow hd hx hok
    _ ≤ 256 ^ d.width := Nat.pow_le_pow_left (Enc.base_le d.enc) _
    _ ≤ 256 ^ 4 := Nat.pow_le_pow_right (by decide) hd.width.2
    _ = 2 ^ 32 := by decide

end Field

/-! ### The payload cut into fields (R119 step 3) -/

/-- Field `j` takes its bytes behind those of the fields before it. -/
theorem getElem?_cutFields (ds : List FieldDesc) (q : List Byte) (j : Nat) :
    (cutFields ds q)[j]? = ds[j]?.map fun d => (d, (q.drop ((ds.take j).map (·.width)).sum).take d.width) := by
  induction ds generalizing q j with
  | nil => rfl
  | cons d ds ih =>
    cases j with
    | zero => simp [cutFields]
    | succ j => simp [cutFields, ih]

/-- Where all fields have one descriptor, field `j` begins behind `j` times its width. -/
theorem getElem?_cutFields_replicate {n j : Nat} (hj : j < n) (d : FieldDesc) (q : List Byte) :
    (cutFields (List.replicate n d) q)[j]? = some (d, (q.drop (j * d.width)).take d.width) := by
  rw [getElem?_cutFields, List.getElem?_replicate_of_lt hj]
  simp [Nat.min_eq_left hj.le]

/-- A payload as long as its fields together gives every field its width. -/
theorem length_of_mem_cutFields {ds : List FieldDesc} {q : List Byte} (hlen : q.length = (ds.map (·.width)).sum)
    {e : FieldDesc × List Byte} (he : e ∈ cutFields ds q) : e.2.length = e.1.width := by
  induction ds generalizing q with
  | nil => cases he
  | cons d ds ih =>
    simp only [List.map_cons, List.sum_cons] at hlen
    obtain rfl | he := List.mem_cons.1 he
    · simp [hlen]
    · exact ih (by simp [hlen]) he

/-- Where all fields are BCD, they are good when all bytes of the payload are BCD. -/
theorem fieldOk_cutFields_iff_of_bcd {ds : List FieldDesc} (hds : ∀ d ∈ ds, d.enc = .bcd) {q : List Byte}
    (hlen : q.length = (ds.map (·.width)).sum) :
    (∀ e ∈ cutFields ds q, fieldOk e.1 e.2 = true) ↔ ∀ b ∈ q, bcdOk b = true := by
  induction ds generalizing q with
  | nil =>
    obtain rfl := List.length_eq_zero_iff.1 hlen
    exact ⟨nofun, nofun⟩
  | cons d ds ih =>
    obtain ⟨hd, hds⟩ := List.forall_mem_cons.1 hds
    simp only [List.map_cons, List.sum_cons] at hlen
    rw [cutFields, List.forall_mem_cons, ih hds (by simp [hlen]), fieldOk_of_bcd hd, List.all_eq_true,
      ← List.forall_mem_append, List.take_append_drop]

/-! ### `value_decode`, check by check (R119) -/

theorem valueDecode_of_noLayout {cfg : Config} {c : Byte} (h : cfg.layoutOf c = none) (q : List Byte) :
    valueDecode cfg c q = .error .unknownCommand := by simp only [valueDecode, h]

section Layout
variable {cfg : Config} {c : Byte} {q : List Byte} {l : Layout} (hl : cfg.layoutOf c = some l)
include hl

theorem valueDecode_of_badLength (hlen : q.length ≠ l.byteLen) : valueDecode cfg c q = .error .badLength := by
  simp only [valueDecode, hl]
  exact if_pos hlen

theorem valueDecode_of_badField (hlen : q.length = l.byteLen)
    (hbad : ¬∀ e ∈ cutFields (layoutFields l) q, fieldOk e.1 e.2 = true) :
    valueDecode cfg c q = .error .badDigit := by
  rw [← List.all_eq_true, Bool.not_eq_true] at hbad
  simp only [valueDecode, hl]
  rw [if_neg (not_not.2 hlen), if_pos hbad]

theorem valueDecode_of_badField_at (hlen : q.length = l.byteLen) {j : Nat} {e : FieldDesc × List Byte}
    (he : (cutFields (layoutFields l) q)[j]? = some e) (hbad : fieldOk e.1 e.2 = false) :
    valueDecode cfg c q = .error .badDigit :=
  valueDecode_of_badField hl hlen fun hall => Bool.eq_false_iff.1 hbad (hall e (List.mem_of_getElem? he))

theorem valueDecode_of_goodFields (hlen : q.length = l.byteLen)
    (hgood : ∀ e ∈ cutFields (layoutFields l) q, fieldOk e.1 e.2 = true) :
    valueDecode cfg c q = .ok ⟨layoutKind l, (cutFields (layoutFields l) q).map fieldSlot⟩ := by
  simp only [valueDecode, hl]
  rw [if_neg (not_not.2 hlen), if_neg (by simp [List.all_eq_true.2 hgood])]

end Layout

/-- What `value_decode` can give: one of three errors, or the Measurement of a payload of the layout's length with good
fields (R119, R126). -/
theorem valueDecode_cases (cfg : Config) (c : Byte) (q : List Byte) :
    valueDecode cfg c q = .error .unknownCommand ∨ valueDecode cfg c q = .error .badLength ∨
    valueDecode cfg c q = .error .badDigit ∨
    ∃ l, cfg.layoutOf c = some l ∧ q.length = l.byteLen ∧
      (∀ e ∈ cutFields (layoutFields l) q, fieldOk e.1 e.2 = true) ∧
      valueDecode cfg c q = .ok ⟨layoutKind l, (cutFields (layoutFields l) q).map fieldSlot⟩ := by
  cases hl : cfg.layoutOf c with
  | none => exact .inl (valueDecode_of_noLayout hl q)
  | some l =>
    by_cases hlen : q.length = l.byteLen
    · by_cases hgood : ∀ e ∈ cutFields (layoutFields l) q, fieldOk e.1 e.2 = true
      · exact .inr (.inr (.inr ⟨l, rfl, hlen, hgood, valueDecode_of_goodFields hl hlen hgood⟩))
      · exact .inr (.inr (.inl (valueDecode_of_badField hl hlen hgood)))
    · exact .inr (.inl (valueDecode_of_badLength hl hlen))

theorem error_of_valueDecode {cfg : Config} {c : Byte} {q : List Byte} {e : Err} (h : valueDecode cfg c q = .error e) :
    e = .unknownCommand ∨ e = .badLength ∨ e = .badDigit := by
  obtain h' | h' | h' | ⟨l, -, -, -, h'⟩ := valueDecode_cases cfg c q <;> cases h'.symm.trans h
  · exact .inl rfl
  · exact .inr (.inl rfl)
  · exact .inr (.inr rfl)

/-- The layout, the length and the good fields behind a decoded Measurement. -/
theorem fields_of_valueDecode {cfg : Config} {c : Byte} {q : List Byte} {m : Measurement}
    (h : valueDecode cfg c q = .ok m) :
    ∃ l, cfg.layoutOf c = some l ∧ q.length = l.byteLen ∧
      (∀ e ∈ cutFields (layoutFields l) q, fieldOk e.1 e.2 = true) ∧
      m = ⟨layoutKind l, (cutFields (layoutFields l) q).map fieldSlot⟩ := by
  obtain h' | h' | h' | ⟨l, hl, hlen, hgood, h'⟩ := valueDecode_cases cfg c q <;> cases h'.symm.trans h
  exact ⟨l, hl, hlen, hgood, rfl⟩

/-! ### DATETIME (R125) -/

/-- The six fields of DATETIME are the six bytes. -/
theorem cutFields_datetime (b0 b1 b2 b3 b4 b5 : Byte) :
    cutFields datetimeFields [b0, b1, b2, b3, b4, b5] =
      datetimeFields.zip [[b0], [b1], [b2], [b3], [b4], [b5]] := rfl

theorem fieldSlot_datetime (q b : Byte) :
    fieldSlot (⟨1, .bcd, [0], 1, q⟩, [b]) = ⟨BitVec.ofNat 32 (bcd2 b), 1#32, q⟩ := by
  simp [fieldSlot, fieldRaw, Enc.digit]

theorem eq_datetime_of_layoutKind {l : Layout} (h : layoutKind l = .datetime) : l = .datetime := by
  cases l with
  | energy | instant => cases h
  | datetime => rfl

theorem oneBcd_of_mem_datetimeFields : ∀ d ∈ datetimeFields, d.enc = .bcd ∧ d.width = 1 := by decide

/-- The raw of one BCD byte has two decimal digits. -/
theorem raw_fieldSlot_le_of_oneBcd {e : FieldDesc × List Byte} (h : e.1.enc = .bcd ∧ e.1.width = 1)
    (hd : FieldLegal e.1) (hx : e.2.length = e.1.width) (hok : fieldOk e.1 e.2 = true) :
    (fieldSlot e).raw.toNat ≤ 99 := by
  have hlt := fieldRaw_lt_pow hd hx hok
  rw [h.1, h.2, pow_one] at hlt
  exact (BitVec.toNat_ofNat _ _).trans_le ((Nat.mod_le _ _).trans (Nat.le_of_lt_succ hlt))

/-! ### VAL.DECODE (R118) -/

theorem toNat_cnt_regs {m : Measurement} (h : m.slots.length ≤ 16) : m.regs.cnt.toNat = m.slots.length := by
  simp only [Measurement.regs, BitVec.toNat_ofNat]
  omega

theorem setWidth_cnt_regs {m : Measurement} (h : m.slots.length ≤ 16) :
    m.regs.cnt.setWidth 32 = BitVec.ofNat 32 m.slots.length := by
  rw [← toNat_cnt_regs h, BitVec.ofNat_toNat]

/-- Slot `i` of a Measurement stands in register `i`, and behind the last the registers are 0. -/
theorem slot_regs (m : Measurement) (i : Fin 16) :
    m.regs.raw[i] = (m.slots[i.val]?).elim 0#32 (·.raw) ∧ m.regs.div[i] = (m.slots[i.val]?).elim 0#32 (·.div) ∧
      m.regs.qty[i] = (m.slots[i.val]?).elim 0#8 (·.qty) := by
  cases h : m.slots[i.val]? <;> simp [Measurement.regs, h]

theorem readBytes_eq_take_drop_content {s : State} {a n : Nat} (h : a + n ≤ s.len) :
    s.mem.readBytes a n = (s.content.drop a).take n := by
  refine List.ext_getElem (by simp; omega) fun i _ _ => ?_
  simp [State.content]

/-! ### The obligations -/

/-- Settles O43: the nibbles of a byte are its digits. -/
theorem packedBcd : Obligations.PackedBcd :=
  ⟨fun hi lo => ⟨by simp [bcdOk_iff], by simp [bcd2]⟩, fun _ => bcd2_le_of_bcdOk, by decide⟩

/-- Settles O44: a good field's raw is the number its digits write in the base of the encoding. -/
theorem fieldRawDigits : Obligations.FieldRawDigits := by
  refine fun d x hd hx => ⟨fun he => ?_, fun he => ⟨fieldOk_iff_of_bcd he hx, fun hok => ?_⟩,
    fieldRaw_lt_register hd hx⟩
  · have hok := fieldOk_of_bin he x
    have hraw := fieldRaw_digits hd hx hok
    rw [he] at hraw
    exact ⟨hok, hraw⟩
  · have hraw := fieldRaw_digits hd hx hok
    rw [he] at hraw
    exact hraw

/-- Settles O42: no layout and the wrong length are the first two checks, and no check raises a fourth error. -/
theorem valueDecodeErrors : Obligations.ValueDecodeErrors := by
  refine fun cfg c q => ⟨fun hnone => valueDecode_of_noLayout ?_ q, fun x l hx hl hlen => ?_,
    fun e he => error_of_valueDecode he⟩
  · obtain hnone | ⟨x, hx, hnone⟩ := hnone
    · simp [Config.layoutOf, hnone]
    · simp [Config.layoutOf, hx, hnone]
  · exact valueDecode_of_badLength (Option.bind_eq_some_iff.2 ⟨x, hx, hl⟩) hlen

/-- Settles O40: the fields of the layout are the listed ones, each at its running offset. -/
theorem instantaneousQuantities : Obligations.InstantaneousQuantities := by
  intro cfg c q ds hl o x
  have hsum : o ds.length = (Layout.instant ds).byteLen := by simp only [o, List.take_length]; rfl
  have hfield {j : Nat} {d : FieldDesc} (hj : ds[j]? = some d) : (cutFields ds q)[j]? = some (d, x j d) := by
    rw [getElem?_cutFields, hj]; rfl
  rw [hsum]
  refine ⟨valueDecode_of_badLength hl, fun hlen => ⟨?_, fun hgood => ⟨_, valueDecode_of_goodFields hl hlen ?_, rfl,
    by simp [layoutFields], fun j d hj => ?_⟩⟩⟩
  · rintro ⟨j, d, hj, hbad⟩
    exact valueDecode_of_badField_at hl hlen (hfield hj) hbad
  · intro e he
    obtain ⟨j, hj⟩ := List.mem_iff_getElem?.1 he
    obtain ⟨d, hd, rfl⟩ := Option.map_eq_some_iff.1 ((getElem?_cutFields ds q j).symm.trans hj)
    exact hgood j d hd
  · exact List.getElem?_map.trans (congrArg (Option.map fieldSlot) (hfield hj))

/-- Settles O39: the fields of the layout are `n` times the one descriptor, so field `j` begins at `j * W`. -/
theorem energyTotals : Obligations.EnergyTotals := by
  intro cfg c q n d hl x
  have hfield {j : Nat} (hj : j < n) : (cutFields (List.replicate n d) q)[j]? = some (d, x j) :=
    getElem?_cutFields_replicate hj d q
  refine ⟨valueDecode_of_badLength hl, fun hlen => ⟨?_, fun hgood => ⟨_, valueDecode_of_goodFields hl hlen ?_, rfl,
    by simp [layoutFields], fun j hj => ?_⟩⟩⟩
  · rintro ⟨j, hj, hbad⟩
    exact valueDecode_of_badField_at hl hlen (hfield hj) hbad
  · intro e he
    obtain ⟨j, hj⟩ := List.mem_iff_getElem?.1 he
    obtain ⟨hlt, -⟩ := List.getElem?_eq_some_iff.1 hj
    have hjn : j < n := by simpa [layoutFields] using hlt
    cases (hfield hjn).symm.trans hj
    exact hgood j hjn
  · exact List.getElem?_map.trans (congrArg (Option.map fieldSlot) (hfield hj))

/-- Settles O41: the six fields are the six bytes, and a field is good when its byte is BCD. -/
theorem dateAndTime : Obligations.DateAndTime := by
  intro cfg c q hl
  have hgood (hlen : q.length = 6) := fieldOk_cutFields_iff_of_bcd (ds := datetimeFields) (by decide) hlen
  refine ⟨valueDecode_of_badLength hl, ?_, ?_⟩
  · rintro hlen ⟨b, hb, hbad⟩
    exact valueDecode_of_badField hl hlen fun hall => Bool.eq_false_iff.1 hbad ((hgood hlen).1 hall b hb)
  · rintro b0 b1 b2 b3 b4 b5 rfl hbcd
    refine (valueDecode_of_goodFields hl rfl ((hgood rfl).2 hbcd)).trans ?_
    rw [layoutFields, cutFields_datetime]
    simp [layoutKind, datetimeFields, fieldSlot_datetime]

/-- Settles O45: a legal layout has 1 to 16 fields with divisors that fit their registers; a date field is one BCD
byte, so its raw is below 100. -/
theorem measurementBounds : Obligations.MeasurementBounds := by
  intro cfg c q m hv hm
  obtain ⟨l, hl, hlen, hgood, rfl⟩ := fields_of_valueDecode hm
  obtain ⟨n, hlegal⟩ := layoutLegal_of_layoutOf hv hl
  obtain ⟨hpos, hmax⟩ := length_layoutFields_of_legal hlegal
  have hfields := fieldLegal_of_layoutLegal hlegal
  refine ⟨by simpa using hpos, by simpa using hmax, fun x hx => ?_, fun hkind x hx => ?_⟩
  · obtain ⟨e, he, rfl⟩ := List.mem_map.1 hx
    have hdiv := fieldSlot_div_ne_zero (hfields _ (mem_of_mem_cutFields he))
    obtain ⟨-, hfrac⟩ := viewInt_mul_add_viewFrac hdiv (fieldSlot e).raw
    exact ⟨by omega, hfrac⟩
  · obtain rfl := eq_datetime_of_layoutKind hkind
    obtain ⟨e, he, rfl⟩ := List.mem_map.1 hx
    have hmem := mem_of_mem_cutFields he
    exact raw_fieldSlot_le_of_oneBcd (oneBcd_of_mem_datetimeFields _ hmem) (hfields _ hmem)
      (length_of_mem_cutFields hlen he) (hgood e he)

/-- Settles O37: VAL.DECODE reads the payload off the content and follows `value_decode`, whose errors carry no
information; a Measurement of at most 16 slots fits the value registers. -/
theorem valDecodeStoresTheMeasurement : Obligations.ValDecodeStoresTheMeasurement := by
  refine ⟨fun c => decode_encode (.valDecode c), fun c s hv => ?_⟩
  intro failing
  refine ⟨fun hr => ?_, fun hr hfit => ?_⟩
  · exact (exec_valDecode_of_noFrame hr c).trans (next_finish_recorded recorded_valDecode _ _)
  · intro q
    have hq : s.mem.readBytes 2 s.resp.plen = q := readBytes_eq_take_drop_content hfit
    refine ⟨fun e he => ?_, fun m hm => ?_⟩
    · refine ((exec_valDecode_of_error hr hfit (hq ▸ he)).trans (next_finish_recorded recorded_valDecode _ _)).trans ?_
      obtain rfl | rfl | rfl := error_of_valueDecode he <;> rfl
    · obtain ⟨-, hmax, -⟩ := measurementBounds _ c q m hv hm
      refine ⟨_, (exec_valDecode_of_ok hr hfit (hq ▸ hm)).trans (next_finish_recorded recorded_valDecode _ _), rfl,
        toNat_cnt_regs hmax, slot_regs m, ?_⟩
      rw [setWidth_cnt_regs hmax]
      rfl

end Sys2Proof.Machine
end

section
/-! SUPPORT. What each move of the host does to the host's invariant, to the transport and to the session, and with it
the safety statements of the family of `44_host_session_exchange.md`: the host's invariant (R158, R159, R162 to R167,
R172), the half-duplex exchange (R52, R176, R194), the opening of the session (R159). -/

namespace Sys2Proof.Machine

/-! ### How a pass ends or is tried again -/

/-- An `execute` returns its failure (R166). -/
theorem State.failPass_of_exchange {s : State} (h : s.agent.task = .exchange) (f : Failure) :
    s.failPass f = s.endCall (.failed f) := by
  simp [State.failPass, h]

/-- A handshake, whoever asked for it, returns its own view of the failure and leaves the session Closed (R162). -/
theorem State.failPass_of_handshake {s : State} (h : s.agent.task ≠ .exchange) (f : Failure) :
    s.failPass f = (s.toSession .closed).endCall (.failed (handshakeFailure f)) := by
  unfold State.failPass
  split
  · next ht => exact absurd ht h
  · rfl
  · rfl

theorem State.retryOrFail_of_lt {s : State} (h : s.agent.cur.attempts < s.cfg.retryBudget) (f : Failure) :
    s.retryOrFail f = s.toPhase .sending := if_pos h

theorem State.retryOrFail_of_le {s : State} (h : s.cfg.retryBudget ≤ s.agent.cur.attempts) (f : Failure) :
    s.retryOrFail f = s.failPass f := if_neg (Nat.not_lt.2 h)

/-- A host whose parameters are as R6 asks makes at least one attempt. -/
theorem Config.retryBudget_pos {cfg : Config} (h : cfg.hostValid = true) : 0 < cfg.retryBudget := by
  simp only [Config.hostValid, Bool.and_eq_true, decide_eq_true_eq] at h
  exact h.1

/-! ### The host's invariant, move by move -/

/-- What the host's invariant says alike in every phase in which a call is under way (R159, R164, R167, R172). -/
structure State.InPass (s : State) : Prop where
  budget     : s.agent.cur.attempts ≤ s.cfg.retryBudget
  exchanging : s.agent.task = .exchange → s.agent.session.phase = .opened
  opening    : s.agent.task ≠ .exchange → s.agent.session.phase = .opening
  once       : ∀ outer, s.agent.task = .reopening outer → outer.reopened = false

theorem State.HostInv.inPass {s : State} (h : s.HostInv) (hph : s.agent.phase.underWay = true) : s.InPass :=
  { h with exchanging := h.exchanging hph }

theorem State.hostInv_iff_of_underWay {s : State} (hph : s.agent.phase.underWay = true) :
    s.HostInv ↔ s.InPass ∧
      (s.agent.phase.preparing = true → s.agent.cur.attempts = 0) ∧
      (s.agent.phase = .sending → s.agent.cur.attempts < s.cfg.retryBudget) ∧
      (s.agent.phase.attempted = true → 1 ≤ s.agent.cur.attempts) ∧
      (s.agent.phase.measuring = true → s.agent.task = .exchange) ∧
      (s.agent.phase = .decoding → s.AwaitsDecode) := by
  constructor
  · exact fun h => ⟨h.inPass hph, h.fresh, h.left, h.made, h.measuring, h.awaits⟩
  · rintro ⟨h, hfresh, hleft, hmade, hmeasuring, hawaits⟩
    exact { h with
      fresh := hfresh, left := hleft, made := hmade, measuring := hmeasuring, awaits := hawaits
      settled := fun h0 => by simp [hph] at h0
      exchanging := fun _ => h.exchanging }


/-- Between calls the session is Closed or Open, and no task is kept (R159, R162). -/
theorem State.hostInv_of_resting {s : State} (hph : s.agent.phase.underWay = false)
    (hbudget : s.agent.cur.attempts ≤ s.cfg.retryBudget) (hsession : s.agent.session.phase ≠ .opening)
    (ht : s.agent.task = .exchange) : s.HostInv := by
  have hrest : s.agent.phase = .idle ∨ s.agent.phase = .draining := by
    cases hp : s.agent.phase <;> simp [hp, Phase.underWay] at hph ⊢
  obtain hp | hp := hrest <;> constructor <;>
    simp [hp, hbudget, hsession, ht, Phase.preparing, Phase.attempted, Phase.underWay, Phase.measuring]

theorem State.hostInv_endCall {s : State} (h : s.agent.session.phase ≠ .opening) (r : CallResult) :
    (s.endCall r).HostInv :=
  State.hostInv_of_resting rfl (Nat.zero_le _) h rfl

theorem State.InPass.hostInv_failPass {s : State} (h : s.InPass) (f : Failure) : (s.failPass f).HostInv := by
  by_cases ht : s.agent.task = .exchange
  · rw [State.failPass_of_exchange ht]
    exact State.hostInv_endCall (by simp [h.exchanging ht]) _
  · rw [State.failPass_of_handshake ht]
    exact State.hostInv_endCall (by simp) _

theorem State.InPass.hostInv_retryOrFail {s : State} (h : s.InPass) (f : Failure) : (s.retryOrFail f).HostInv := by
  obtain hlt | hle := Nat.lt_or_ge s.agent.cur.attempts s.cfg.retryBudget
  · rw [State.retryOrFail_of_lt hlt]
    exact (State.hostInv_iff_of_underWay rfl).2 ⟨{ h with }, nofun, fun _ => hlt, nofun, nofun, nofun⟩
  · rw [State.retryOrFail_of_le hle]
    exact h.hostInv_failPass f

/-- A pass begins with no attempt made, for an `execute` on an open session or for a handshake in state Opening. -/
theorem State.hostInv_startPass {s : State} {t : Task} (hex : t = .exchange → s.agent.session.phase = .opened)
    (hopening : t ≠ .exchange → s.agent.session.phase = .opening)
    (honce : ∀ outer, t = .reopening outer → outer.reopened = false) (c : Byte) (p : List Byte) :
    (s.startPass t c p).HostInv :=
  (State.hostInv_iff_of_underWay rfl).2
    ⟨⟨Nat.zero_le _, hex, hopening, honce⟩, fun _ => rfl, nofun, nofun, nofun, nofun⟩

theorem State.hostInv_openChannel {s : State} {t : Task} (ht : t ≠ .exchange)
    (honce : ∀ outer, t = .reopening outer → outer.reopened = false) (a : Byte) (p : List Byte) :
    (s.openChannel t a p).HostInv :=
  State.hostInv_startPass (fun h => absurd h ht) (fun _ => rfl) honce _ _

theorem State.HostInv.startCall {s : State} (h : s.HostInv) (hph : s.agent.phase = .idle) : s.startCall.HostInv := by
  obtain ⟨hsession, -⟩ := h.settled (by simp [hph, Phase.underWay])
  unfold State.startCall
  split
  · exact h
  · exact State.hostInv_openChannel (by simp) (by simp) _ _
  · split
    · next hopen =>
      have hopened : s.agent.session.phase = .opened := by simpa [Session.isOpen] using hopen
      exact State.hostInv_startPass (by simp [hopened]) (absurd rfl) nofun _ _
    · refine State.hostInv_endCall ?_ _
      exact hsession

theorem State.InPass.hostInv_onEncoded {s : State} (h : s.InPass) (hfresh : s.agent.cur.attempts = 0) (r : Response) :
    (s.onEncoded r).HostInv := by
  unfold State.onEncoded
  split
  · split
    · exact (State.hostInv_iff_of_underWay rfl).2 ⟨{ h with }, fun _ => hfresh, nofun, nofun, nofun, nofun⟩
    · exact h.hostInv_failPass _
  · exact h.hostInv_failPass _

/-- What was read goes to the block with the FRM.DECODE of its command as the last word. -/
theorem State.awaitsDecode_issueCmds_responseCmds (s : State) (rx : List Byte) :
    (s.issueCmds (responseCmds s.agent.cur.command rx) .decoding).AwaitsDecode :=
  .inl ⟨s.issue ++ presented (loadCmds rx), by simp [responseCmds, presented]⟩

theorem State.InPass.hostInv_transportRead {s : State} (h : s.InPass) (hmade : 1 ≤ s.agent.cur.attempts) :
    s.transportRead.HostInv := by
  have hread : s.afterRead.InPass := { h with }
  unfold State.transportRead
  split
  · exact hread.hostInv_retryOrFail _
  · exact (State.hostInv_iff_of_underWay rfl).2 ⟨{ hread with }, nofun, nofun, fun _ => hmade, nofun,
      fun _ => s.afterRead.awaitsDecode_issueCmds_responseCmds s.readBytes⟩

/-- The answer to the handshake ends `open_channel`, or starts the exchange that reopened again, which has a whole
budget before it (R172). -/
theorem State.hostInv_sessionOpened {s : State} (hbudget : 0 < s.cfg.retryBudget) :
    s.sessionOpened.HostInv := by
  unfold State.sessionOpened
  split
  · exact (State.hostInv_iff_of_underWay rfl).2
      ⟨⟨Nat.zero_le _, fun _ => rfl, absurd rfl, nofun⟩, nofun, fun _ => hbudget, nofun, nofun, nofun⟩
  · exact State.hostInv_endCall (by simp) _
  · exact State.hostInv_endCall (by simp) _

theorem State.InPass.hostInv_onNak {s : State} (h : s.InPass) (k : Byte) : (s.onNak k).HostInv := by
  unfold State.onNak
  split
  · exact h.hostInv_failPass _
  · exact h.hostInv_failPass _
  · next ht =>
    split
    · split
      · rw [State.failPass_of_exchange (s := s.toSession .closed) ht]
        exact State.hostInv_endCall (by simp) _
      · next hfirst =>
        refine State.hostInv_openChannel (by simp) (fun outer ho => ?_) _ _
        cases ho
        simpa using hfirst
    · exact h.hostInv_failPass _

theorem State.InPass.hostInv_onDecoded {s : State} (h : s.InPass) (hmade : 1 ≤ s.agent.cur.attempts)
    (hbudget : 0 < s.cfg.retryBudget) (r : Response) : (s.onDecoded r).HostInv := by
  unfold State.onDecoded
  split
  · split
    · next ht =>
      exact (State.hostInv_iff_of_underWay rfl).2 ⟨{ h with }, nofun, nofun, fun _ => hmade, fun _ => ht, nofun⟩
    · exact State.hostInv_sessionOpened hbudget
    · exact State.hostInv_sessionOpened hbudget
  · split
    · exact h.hostInv_retryOrFail _
    · split
      · exact h.hostInv_onNak _
      · exact h.hostInv_failPass _

theorem State.InPass.hostInv_onValued {s : State} (h : s.InPass) (hmade : 1 ≤ s.agent.cur.attempts)
    (ht : s.agent.task = .exchange) (r : Response) : (s.onValued r).HostInv := by
  unfold State.onValued
  split
  · exact (State.hostInv_iff_of_underWay rfl).2 ⟨{ h with }, nofun, nofun, fun _ => hmade, fun _ => ht, nofun⟩
  · exact h.hostInv_failPass _

/-- With the cut-off read over the host is idle, and no call is under way (log 22). -/
theorem State.HostInv.drainRead {s : State} (h : s.HostInv) (hph : s.agent.phase = .draining) :
    s.drainRead.HostInv := by
  obtain ⟨hsession, ht⟩ := h.settled (by simp [hph, Phase.underWay])
  exact State.hostInv_of_resting rfl h.budget hsession ht

/-- Every move of a host whose parameters are as R6 asks keeps the host's invariant. -/
theorem State.HostInv.hostMove {s : State} (h : s.HostInv) (hh : s.cfg.hostValid = true) : s.hostMove.HostInv := by
  have hbudget := Config.retryBudget_pos hh
  have hpass := h.inPass
  have hfresh := h.fresh
  have hleft := h.left
  have hmade := h.made
  have hmeasuring := h.measuring
  unfold State.hostMove
  cases hph : s.agent.phase with rw [hph] at hpass hfresh hleft hmade hmeasuring
  | idle => exact h.startCall hph
  | encoding =>
    dsimp only
    split
    · exact (hpass rfl).hostInv_onEncoded (hfresh rfl) _
    · exact h
  | dumpLength =>
    dsimp only
    split
    · exact (State.hostInv_iff_of_underWay rfl).2 ⟨{ hpass rfl with }, fun _ => hfresh rfl, nofun, nofun, nofun, nofun⟩
    · exact h
  | dumpBytes n =>
    dsimp only
    split
    · exact (State.hostInv_iff_of_underWay rfl).2 ⟨{ hpass rfl with }, nofun,
        fun _ => (hfresh rfl).trans_lt hbudget, nofun, nofun, nofun⟩
    · exact h
  | sending =>
    exact (State.hostInv_iff_of_underWay rfl).2 ⟨{ hpass rfl with budget := hleft rfl }, nofun, nofun,
      fun _ => Nat.le_add_left _ _, nofun, nofun⟩
  | receiving => exact (hpass rfl).hostInv_transportRead (hmade rfl)
  | draining => exact h.drainRead hph
  | decoding =>
    dsimp only
    split
    · exact (hpass rfl).hostInv_onDecoded (hmade rfl) hbudget _
    · exact h
  | valuing =>
    dsimp only
    split
    · exact (hpass rfl).hostInv_onValued (hmade rfl) (hmeasuring rfl) _
    · exact h
  | readKind =>
    dsimp only
    split
    · exact (State.hostInv_iff_of_underWay rfl).2 ⟨{ hpass rfl with }, nofun, nofun, fun _ => hmade rfl,
        fun _ => hmeasuring rfl, nofun⟩
    · exact h
  | readSlots kind n =>
    dsimp only
    split
    · exact State.hostInv_endCall (by simp [(hpass rfl).exchanging (hmeasuring rfl)]) _
    · exact h

/-! ### The host's invariant, event by event -/

/-- What happens at the port keeps the host's invariant if it leaves the host alone, once the wait for FRM.DECODE is
seen to. -/
theorem State.HostInv.of_agent_eq {s t : State} (h : s.HostInv) (ha : t.agent = s.agent) (hc : t.cfg = s.cfg)
    (hawaits : s.AwaitsDecode → t.AwaitsDecode) : t.HostInv := by
  constructor <;> simp only [ha, hc]
  exacts [h.budget, h.fresh, h.left, h.made, h.settled, h.exchanging, h.opening, h.measuring,
    fun hph => hawaits (h.awaits hph), h.once]

/-- While something is at the port, the FRM.DECODE the host waits for is next and last there, or still behind what is
next. -/
theorem State.AwaitsDecode.of_issue_cons {s : State} (h : s.AwaitsDecode) {e : PortEvent} {es : List PortEvent}
    (hi : s.issue = e :: es) :
    (e = .command (encode (.frmDecode s.agent.cur.command)) ∧ es = []) ∨
      ∃ fs, es = fs ++ [.command (encode (.frmDecode s.agent.cur.command))] := by
  obtain ⟨fs, hfs⟩ | ⟨hnone, -⟩ := h
  · rw [hi] at hfs
    cases fs with
    | nil => exact .inl (by simpa using hfs)
    | cons f fs => exact .inr ⟨fs, (List.cons.inj hfs).2⟩
  · simp [hi] at hnone

/-- A command word runs: the awaited FRM.DECODE leaves what the host waits for, any other word was before it. -/
theorem State.AwaitsDecode.runWord {s t : State} (h : s.AwaitsDecode) {w : Half} {es : List PortEvent}
    (hi : s.issue = .command w :: es) (hrun : runWord w { s with issue := es } = .next t) : t.AwaitsDecode := by
  obtain ⟨ha, -, hissue⟩ := runWord_keeps_host hrun
  obtain ⟨hw, rfl⟩ | ⟨fs, rfl⟩ := h.of_issue_cons hi
  · cases hw
    rw [runWord_of_decode_ok (decode_encode _)] at hrun
    obtain ⟨r, hrsps, hrecord⟩ := frmDecode_recorded hrun
    exact .inr ⟨hissue, r, _, hrsps, hrecord⟩
  · exact .inl ⟨fs, by rw [hissue, ha]⟩

/-- A restarted host has no call under way and its session Closed (R188). -/
theorem State.hostInv_restartHost (s : State) : s.restartHost.HostInv := by
  have hph : s.agent.phase.restarted.underWay = false := by
    rw [Phase.restarted_eq]
    split <;> rfl
  exact State.hostInv_of_resting hph (Nat.zero_le _) (by simp [Session.initial]) rfl

/-- Settles O52: a command word and a hardware reset leave the host alone, a restart starts it anew, and every move of
its own keeps its invariant. -/
theorem stepKeepsTheHostInvariant : Obligations.StepKeepsTheHostInvariant := by
  intro s t h hstep
  obtain ⟨-, ⟨e, es, hi, hrun⟩ | ⟨-, hturn⟩⟩ := step_next hstep
  · cases e with
    | command w =>
      obtain ⟨ha, hc, -⟩ := runWord_keeps_host hrun
      exact h.of_agent_eq ha hc fun hawaits => hawaits.runWord hi hrun
    | hardwareReset =>
      cases hrun
      refine h.of_agent_eq rfl rfl fun hawaits => ?_
      obtain ⟨he, -⟩ | hbehind := hawaits.of_issue_cons hi
      · cases he
      · exact .inl hbehind
    | hostRestart =>
      cases hrun
      exact State.hostInv_restartHost _
  · obtain ⟨-, rfl⟩ | ⟨-, hh, rfl⟩ := agentTurn_next hturn
    · exact h
    · exact h.hostMove hh

/-! ### What a move leaves of the transport and the session (R159, R176) -/

/-- From `s` to `t` the transport is not used and the session does not open. -/
def State.OffLine (s t : State) : Prop :=
  t.agent.writes = s.agent.writes ∧ t.agent.inbox = s.agent.inbox ∧
    (t.agent.session.isOpen = true → s.agent.session.isOpen = true)

theorem State.OffLine.refl (s : State) : s.OffLine s := ⟨rfl, rfl, id⟩

theorem State.OffLine.trans {s t u : State} (h : s.OffLine t) (h' : t.OffLine u) : s.OffLine u := by
  obtain ⟨hw, hin, hopen⟩ := h
  obtain ⟨hw', hin', hopen'⟩ := h'
  exact ⟨hw'.trans hw, hin'.trans hin, hopen ∘ hopen'⟩

theorem offLine_toSession_closed (s : State) : s.OffLine (s.toSession .closed) := ⟨rfl, rfl, nofun⟩

theorem offLine_failPass (s : State) (f : Failure) : s.OffLine (s.failPass f) := by
  by_cases ht : s.agent.task = .exchange
  · rw [State.failPass_of_exchange ht]; exact ⟨rfl, rfl, id⟩
  · rw [State.failPass_of_handshake ht]; exact ⟨rfl, rfl, nofun⟩

theorem offLine_retryOrFail (s : State) (f : Failure) : s.OffLine (s.retryOrFail f) := by
  unfold State.retryOrFail
  split
  · exact ⟨rfl, rfl, id⟩
  · exact offLine_failPass s f

theorem offLine_openChannel (s : State) (t : Task) (a : Byte) (p : List Byte) : s.OffLine (s.openChannel t a p) :=
  ⟨rfl, rfl, nofun⟩

theorem offLine_startCall (s : State) : s.OffLine s.startCall := by
  unfold State.startCall
  split
  · exact .refl s
  · exact ⟨rfl, rfl, nofun⟩
  · split <;> exact ⟨rfl, rfl, id⟩

theorem offLine_onEncoded (s : State) (r : Response) : s.OffLine (s.onEncoded r) := by
  unfold State.onEncoded
  split
  · split
    · exact ⟨rfl, rfl, id⟩
    · exact offLine_failPass s _
  · exact offLine_failPass s _

theorem offLine_onNak (s : State) (k : Byte) : s.OffLine (s.onNak k) := by
  unfold State.onNak
  split
  · exact offLine_failPass s _
  · exact offLine_failPass s _
  · split
    · split
      · exact (offLine_toSession_closed s).trans (offLine_failPass _ _)
      · exact (offLine_toSession_closed s).trans (offLine_openChannel _ _ _ _)
    · exact offLine_failPass s _

theorem offLine_onValued (s : State) (r : Response) : s.OffLine (s.onValued r) := by
  unfold State.onValued
  split
  · exact ⟨rfl, rfl, id⟩
  · exact offLine_failPass s _

/-- The answer to RESPONSE acknowledges a handshake, or is dealt with off the line. -/
theorem onDecoded_cases (s : State) (r : Response) :
    (r.ok = true ∧ s.agent.task ≠ .exchange ∧ s.onDecoded r = s.sessionOpened) ∨ s.OffLine (s.onDecoded r) := by
  unfold State.onDecoded
  split
  · next hok =>
    split
    · exact .inr ⟨rfl, rfl, id⟩
    · next ht => exact .inl ⟨hok, by simp [ht], rfl⟩
    · next ht => exact .inl ⟨hok, by simp [ht], rfl⟩
  · right
    split
    · exact offLine_retryOrFail s _
    · split
      · exact offLine_onNak s _
      · exact offLine_failPass s _

/-- The read of an attempt ends it: whatever follows is off the line. -/
theorem offLine_transportRead (s : State) : s.afterRead.OffLine s.transportRead := by
  unfold State.transportRead
  split
  · exact offLine_retryOrFail _ _
  · exact ⟨rfl, rfl, id⟩

/-- The acknowledged handshake opens the session at the present time (R159). -/
theorem sessionOpened_keeps_transport (s : State) :
    s.sessionOpened.agent.writes = s.agent.writes ∧ s.sessionOpened.agent.inbox = s.agent.inbox ∧
      s.sessionOpened.agent.session.openedAt = s.agent.now := by
  unfold State.sessionOpened
  split <;> exact ⟨rfl, rfl, rfl⟩

/-- A move of the host writes to the transport, ends a read, acknowledges a handshake, or stays off the line. -/
theorem hostMove_cases (s : State) :
    (s.agent.phase = .sending ∧ s.hostMove = s.transportWrite) ∨
    (s.agent.phase = .receiving ∧ s.hostMove = s.transportRead) ∨
    (s.agent.phase = .draining ∧ s.hostMove = s.drainRead) ∨
    (s.agent.phase = .decoding ∧ s.agent.task ≠ .exchange ∧ (∃ r rs, s.rsps = r :: rs ∧ r.ok = true) ∧
      s.hostMove = s.sessionOpened) ∨
    (s.agent.phase.inFlight = false ∧ s.OffLine s.hostMove) := by
  unfold State.hostMove
  cases hph : s.agent.phase with
  | sending => exact .inl ⟨rfl, rfl⟩
  | receiving => exact .inr (.inl ⟨rfl, rfl⟩)
  | draining => exact .inr (.inr (.inl ⟨rfl, rfl⟩))
  | decoding =>
    dsimp only
    split
    · next r rs hr =>
      obtain ⟨hok, ht, heq⟩ | hoff := onDecoded_cases s r
      · exact .inr (.inr (.inr (.inl ⟨rfl, ht, ⟨r, rs, hr, hok⟩, heq⟩)))
      · exact .inr (.inr (.inr (.inr ⟨rfl, hoff⟩)))
    · exact .inr (.inr (.inr (.inr ⟨rfl, .refl s⟩)))
  | idle => exact .inr (.inr (.inr (.inr ⟨rfl, offLine_startCall s⟩)))
  | encoding =>
    refine .inr (.inr (.inr (.inr ⟨rfl, ?_⟩)))
    dsimp only
    split
    · exact offLine_onEncoded s _
    · exact .refl s
  | valuing =>
    refine .inr (.inr (.inr (.inr ⟨rfl, ?_⟩)))
    dsimp only
    split
    · exact offLine_onValued s _
    · exact .refl s
  | dumpLength | dumpBytes _ | readKind | readSlots _ _ =>
    refine .inr (.inr (.inr (.inr ⟨rfl, ?_⟩)))
    dsimp only
    split
    · exact ⟨rfl, rfl, id⟩
    · exact .refl s

@[simp] theorem State.failPass_phase (s : State) (f : Failure) : (s.failPass f).agent.phase = .idle := by
  unfold State.failPass
  split <;> rfl

/-- The read of an attempt is over when the host goes on: to the next attempt, the end of the call, or RESPONSE. -/
theorem inFlight_transportRead (s : State) : s.transportRead.agent.phase.inFlight = false := by
  unfold State.transportRead State.retryOrFail
  split
  · split
    · rfl
    · simp [Phase.inFlight]
  · rfl

@[simp] theorem Phase.inFlight_receiving : Phase.receiving.inFlight = true := rfl
@[simp] theorem Phase.inFlight_draining : Phase.draining.inFlight = true := rfl

/-- A restart cuts off a read in flight (log 22). -/
theorem Phase.restarted_of_inFlight {p : Phase} (h : p.inFlight = true) : p.restarted = .draining := if_pos h

/-- For the host a step is an event that leaves it alone, a restart, nothing to do, or its move. -/
theorem step_host_cases {s t : State} (h : step s = .next t) :
    (s.issue ≠ [] ∧ t.agent = s.agent) ∨
    (∃ es, s.issue = .hostRestart :: es ∧ t = ({ s with issue := es } : State).restartHost) ∨
    (s.issue = [] ∧ s.agent.phase = .idle ∧ t = s) ∨
    (s.issue = [] ∧ s.cfg.hostValid = true ∧ t = s.hostMove) := by
  obtain ⟨-, ⟨e, es, hi, hrun⟩ | ⟨hi, hturn⟩⟩ := step_next h
  · have hne : s.issue ≠ [] := by simp [hi]
    cases e with
    | command w => exact .inl ⟨hne, (runWord_keeps_host hrun).1⟩
    | hardwareReset => exact .inl ⟨hne, (hardwareReset_keeps_host hrun).1⟩
    | hostRestart => cases hrun; exact .inr (.inl ⟨es, hi, rfl⟩)
  · obtain ⟨hq, rfl⟩ | ⟨-, hh, rfl⟩ := agentTurn_next hturn
    · exact .inr (.inr (.inl ⟨hi, (by simpa [Agent.quiet] using hq : _ ∧ _).1, rfl⟩))
    · exact .inr (.inr (.inr ⟨hi, hh, rfl⟩))

/-- Settles O57: an event at the port uses no transport and a restart waits a read out; of the host's moves the write
and the two ends of a read are the ones on the line. -/
theorem halfDuplexExchange : Obligations.HalfDuplexExchange := by
  intro s t h
  obtain ⟨hi, ha⟩ | ⟨es, hi, rfl⟩ | ⟨hi, hidle, rfl⟩ | ⟨hi, -, rfl⟩ := step_host_cases h
  · simp [ha, hi]
  · simp +contextual [hi, Phase.restarted_of_inFlight]
  · simp [hi, hidle, Phase.inFlight]
  · obtain ⟨hph, heq⟩ | ⟨hph, heq⟩ | ⟨hph, heq⟩ | ⟨hph, -, -, heq⟩ | ⟨hph, hw, hin, -⟩ := hostMove_cases s
    · rw [heq]
      simp [hi, hph, Phase.inFlight, State.transportWrite]
    · obtain ⟨hw, hin, -⟩ := offLine_transportRead s
      rw [heq]
      exact ⟨fun hne => absurd hw hne, fun _ => ⟨hi, by simp [hph]⟩,
        fun _ => ⟨hw, fun _ => ⟨inFlight_transportRead s, hin, by simp [hph]⟩, absurd hi, absurd hi⟩⟩
    · rw [heq]
      simp [hi, hph, Phase.inFlight, State.drainRead, State.afterRead]
    · obtain ⟨hw, hin, -⟩ := sessionOpened_keeps_transport s
      rw [heq]
      simp [hi, hph, hw, hin, Phase.inFlight]
    · simp [hph, hw, hin]

/-- Settles O58: off the line no session opens, nor does the transport open one; what acknowledges a handshake is the
answer the host's invariant says is FRM.DECODE's. -/
theorem sessionOpensOnlyOnAck : Obligations.SessionOpensOnlyOnAck := by
  intro s t hs h hclosed hopen
  have hnew : t.agent.session ≠ s.agent.session := fun heq => by simp [heq, hclosed] at hopen
  obtain ⟨-, ha⟩ | ⟨es, -, rfl⟩ | ⟨-, -, rfl⟩ | ⟨hi, -, rfl⟩ := step_host_cases h
  · exact absurd (congrArg Agent.session ha) hnew
  · cases hopen
  · exact absurd rfl hnew
  · obtain ⟨-, heq⟩ | ⟨-, heq⟩ | ⟨-, heq⟩ | ⟨hph, ht, hack, heq⟩ | ⟨-, -, -, hkeep⟩ := hostMove_cases s
    · exact absurd (by rw [heq]; rfl) hnew
    · obtain ⟨-, -, hkeep⟩ := offLine_transportRead s
      rw [heq] at hopen
      have : s.agent.session.isOpen = true := hkeep hopen
      simp [this] at hclosed
    · exact absurd (by rw [heq]; rfl) hnew
    · obtain ⟨es, hes⟩ | ⟨-, r, rs, hr, hop, hok, -, hvalid⟩ := hs.awaits hph
      · simp [hi] at hes
      · obtain ⟨r', rs', hr', hok'⟩ := hack
        obtain ⟨rfl, rfl⟩ := List.cons.inj (hr.symm.trans hr')
        have hv : s.st.rValid = true := hvalid.trans hok'
        obtain ⟨-, -, htime⟩ := sessionOpened_keeps_transport s
        exact ⟨hi, hph, ht, hs.opening ht, ⟨r, rs, hr, hok'⟩, hop, hok.trans hok', hv, fun hinv => hinv.respHeld hv,
          by rw [heq]; exact htime⟩
    · simp [hkeep hopen] at hclosed

end Sys2Proof.Machine
end

section
/-! SUPPORT. The host's move in each phase, the attempt loop against a silent transport and the reads of the value
registers as runs, and with them the statements about calls of the family of `44_host_session_exchange.md` (R162 to
R173, R177). -/

namespace Sys2Proof.Machine

/-! ### The host's turn, phase by phase -/

section Turn

variable {s : State} (hv : s.cfg.valid = true) (hh : s.cfg.hostValid = true) (hi : s.issue = [])
include hv hh hi

theorem step_of_phase (hph : s.agent.phase ≠ .idle) : step s = .next s.hostMove :=
  step_of_host_move hv hh hi (Agent.quiet_of_phase hph)

theorem step_startCall {c : Call} {cs : List Call} (hph : s.agent.phase = .idle) (hc : s.agent.calls = c :: cs) :
    step s = .next s.startCall := by
  rw [step_of_host_move hv hh hi (by simp [Agent.quiet, hc])]
  simp [State.hostMove, hph]

theorem step_encoding {r : Response} {rs : List Response} (hph : s.agent.phase = .encoding) (hr : s.rsps = r :: rs) :
    step s = .next (s.onEncoded r) := by
  rw [step_of_phase hv hh hi (by simp [hph])]
  simp [State.hostMove, hph, hr]

theorem step_dumpLength {r : Response} {rs : List Response} (hph : s.agent.phase = .dumpLength)
    (hr : s.rsps = r :: rs) :
    step s = .next (s.issueCmds (dumpCmds r.data.toNat) (.dumpBytes r.data.toNat)) := by
  rw [step_of_phase hv hh hi (by simp [hph])]
  simp [State.hostMove, hph, hr]

theorem step_dumpBytes {n : Nat} (hph : s.agent.phase = .dumpBytes n) (hn : n ≤ s.rsps.length) :
    step s = .next (s.keepFrame n) := by
  rw [step_of_phase hv hh hi (by simp [hph])]
  simp [State.hostMove, hph, hn]

theorem step_sending (hph : s.agent.phase = .sending) : step s = .next s.transportWrite := by
  rw [step_of_phase hv hh hi (by simp [hph])]
  simp [State.hostMove, hph]

theorem step_receiving (hph : s.agent.phase = .receiving) : step s = .next s.transportRead := by
  rw [step_of_phase hv hh hi (by simp [hph])]
  simp [State.hostMove, hph]

theorem step_decoding {r : Response} {rs : List Response} (hph : s.agent.phase = .decoding) (hr : s.rsps = r :: rs) :
    step s = .next (s.onDecoded r) := by
  rw [step_of_phase hv hh hi (by simp [hph])]
  simp [State.hostMove, hph, hr]

theorem step_valuing {r : Response} {rs : List Response} (hph : s.agent.phase = .valuing) (hr : s.rsps = r :: rs) :
    step s = .next (s.onValued r) := by
  rw [step_of_phase hv hh hi (by simp [hph])]
  simp [State.hostMove, hph, hr]

theorem step_readKind {cnt kind : Response} {rs : List Response} (hph : s.agent.phase = .readKind)
    (hr : s.rsps = cnt :: kind :: rs) : step s = .next (s.onKind kind cnt) := by
  rw [step_of_phase hv hh hi (by simp [hph])]
  simp [State.hostMove, hph, hr]

theorem step_readSlots {kind : VKind} {n : Nat} (hph : s.agent.phase = .readSlots kind n)
    (hn : 3 * n ≤ s.rsps.length) :
    step s = .next (s.endCall (.measured ⟨kind, slotsOf (s.rsps.take (3 * n)).reverse n⟩)) := by
  rw [step_of_phase hv hh hi (by simp [hph])]
  simp [State.hostMove, hph, hn]

end Turn

/-! ### How a call begins (R162, R164) -/

theorem State.startCall_of_openChannel {s : State} {a : Byte} {p : List Byte} {cs : List Call}
    (hc : s.agent.calls = .openChannel a p :: cs) : s.startCall =
      ({ s with agent := { s.agent with calls := cs } } : State).openChannel .handshake a p := by
  simp [State.startCall, hc]

section Execute

variable {s : State} {c : Byte} {p : List Byte} {cs : List Call} (hc : s.agent.calls = .execute c p :: cs)
include hc

theorem State.startCall_of_execute (hopen : s.agent.session.isOpen = true) : s.startCall =
    ({ s with agent := { s.agent with calls := cs } } : State).startPass .exchange c p := by
  simp [State.startCall, hc, hopen]

/-- An `execute` on a session that is not open fails at once (R164). -/
theorem State.startCall_of_not_open (hclosed : s.agent.session.isOpen = false) : s.startCall =
    ({ s with agent := { s.agent with calls := cs } } : State).endCall (.failed .channelNotOpen) := by
  simp [State.startCall, hc, hclosed]

end Execute

/-! ### What the host does with an answer -/

/-- REQUEST succeeded, so its command has a schema: DUMP begins, and the expected length is kept (R165, R168). -/
theorem State.onEncoded_of_ok {s : State} {r : Response} {x : Schema} (hx : s.cfg.schema s.agent.cur.command = some x)
    (hok : r.ok = true) : s.onEncoded r =
      ({ s with agent := { s.agent with cur := { s.agent.cur with nExp := x.respDlen + 4 } } } : State).issueCmds
        [.regRead 0x02#8] .dumpLength := by
  simp [State.onEncoded, hx, hok]

/-- REQUEST is refused (R165). -/
theorem State.onEncoded_of_refused {s : State} {r : Response}
    (h : r.ok = false ∨ s.cfg.schema s.agent.cur.command = none) :
    s.onEncoded r = s.failPass .constructionError := by
  unfold State.onEncoded
  split
  · next x hx => simp_all
  · rfl

/-- A read of no byte is a timeout (R169). -/
theorem State.transportRead_of_silent {s : State} (h : ∀ a, s.agent.inbox.head? = some a → a.bytes = []) :
    s.transportRead = s.afterRead.retryOrFail .timeout := by
  refine if_pos ?_
  unfold State.readBytes
  split
  · rfl
  · next a as ha => simp [h a (by simp [ha])]

/-- What was read, cut to the expected length, goes to the block (R166, R168). -/
theorem State.transportRead_of_answer {s : State} {a : Answer} (h : s.agent.inbox.head? = some a)
    (hbytes : a.bytes ≠ []) (hexp : 0 < s.agent.cur.nExp) :
    s.transportRead = s.afterRead.issueCmds
      (responseCmds s.agent.cur.command (a.bytes.take s.agent.cur.nExp)) .decoding := by
  have hread : s.readBytes = a.bytes.take s.agent.cur.nExp := by
    obtain ⟨as, hin⟩ := List.head?_eq_some_iff.1 h
    simp [State.readBytes, hin]
  have hne : s.readBytes ≠ [] := by simp [hread, hbytes, hexp.ne']
  rw [State.transportRead, if_neg hne, hread]

/-- An `execute` has the values of a verified response decoded (R166). -/
theorem State.onDecoded_of_ok {s : State} {r : Response} (hok : r.ok = true) (ht : s.agent.task = .exchange) :
    s.onDecoded r = s.issueCmds [.valDecode s.agent.cur.command] .valuing := by
  simp [State.onDecoded, hok, ht]

/-- A verified response acknowledges a handshake (R162). -/
theorem State.onDecoded_of_ack {s : State} {r : Response} (hok : r.ok = true) (ht : s.agent.task ≠ .exchange) :
    s.onDecoded r = s.sessionOpened := by
  unfold State.onDecoded
  rw [if_pos hok]
  split
  · next h => exact absurd h ht
  · rfl
  · rfl

/-- An acknowledged reopening starts its exchange again with a fresh counter (R172). -/
theorem State.sessionOpened_of_reopening {s : State} {outer : Exchange} (ht : s.agent.task = .reopening outer) :
    s.sessionOpened = { s with agent := { s.agent with
      session := { s.agent.session with phase := .opened, openedAt := s.agent.now }
      task := .exchange, cur := { outer with reopened := true, attempts := 0 }, phase := .sending } } := by
  simp [State.sessionOpened, ht]

/-- An acknowledged handshake ends `open_channel` (R162). -/
theorem State.sessionOpened_of_handshake {s : State} (ht : s.agent.task = .handshake) :
    s.sessionOpened = ({ s with agent := { s.agent with
      session := { s.agent.session with phase := .opened, openedAt := s.agent.now } } } : State).endCall .opened := by
  simp [State.sessionOpened, ht]

section Refused

variable {s : State} {r : Response} (hok : r.ok = false)
include hok

/-- A bad checksum is tried again (R171). -/
theorem State.onDecoded_of_mismatch (he : r.err = 2#4) : s.onDecoded r = s.retryOrFail .corruptResponse := by
  simp [State.onDecoded, hok, he]

theorem State.onDecoded_of_nak (he : r.err = 3#4) : s.onDecoded r = s.onNak (r.data.setWidth 8) := by
  simp [State.onDecoded, hok, he]

/-- Any other error of the frame is DecodeFailed (R173). -/
theorem State.onDecoded_of_badFrame (he : r.err = 1#4 ∨ r.err = 4#4 ∨ r.err = 6#4) :
    s.onDecoded r = s.failPass (.decodeFailed r.err) := by
  obtain he | he | he := he <;> simp [State.onDecoded, hok, he]

end Refused

/-- Every NAK to a handshake is a rejection (R162). -/
theorem State.onNak_of_handshake {s : State} (ht : s.agent.task ≠ .exchange) (k : Byte) :
    s.onNak k = s.failPass (.rejected k) := by
  unfold State.onNak
  split
  · rfl
  · rfl
  · next h => exact absurd h ht

/-- In an `execute` the first closed-channel code has the session reopened (R172). -/
theorem State.onNak_of_closed {s : State} (ht : s.agent.task = .exchange) (hfirst : s.agent.cur.reopened = false) :
    s.onNak s.cfg.nakClosed = (s.toSession .closed).openChannel (.reopening s.agent.cur) s.agent.session.address
      s.agent.session.openParams := by
  simp [State.onNak, ht, hfirst]

/-- The second closed-channel code is a rejection, with the session Closed (R172). -/
theorem State.onNak_of_closed_again {s : State} (ht : s.agent.task = .exchange)
    (hagain : s.agent.cur.reopened = true) :
    s.onNak s.cfg.nakClosed = (s.toSession .closed).endCall (.failed (.rejected s.cfg.nakClosed)) := by
  simp [State.onNak, State.failPass, ht, hagain]

/-- Every other code is a rejection and leaves the session (R172). -/
theorem State.onNak_of_other {s : State} {k : Byte} (ht : s.agent.task = .exchange) (hk : k ≠ s.cfg.nakClosed) :
    s.onNak k = s.endCall (.failed (.rejected k)) := by
  simp [State.onNak, State.failPass, ht, hk]

/-! ### The attempt loop against a silent transport (R166, R167, R177) -/

theorem State.readTime_le (s : State) : s.readTime ≤ s.cfg.attemptTimeout := by
  unfold State.readTime
  split
  · exact le_rfl
  · exact min_le_right _ _

/-- `t` is `s` after `n` attempts, the last of which has ended an `execute` in Timeout. -/
structure State.TimesOut (s t : State) (n : Nat) : Prop where
  results : t.agent.results = .failed .timeout :: s.agent.results
  phase   : t.agent.phase = .idle
  writes  : t.agent.writes = List.replicate n s.agent.cur.frame ++ s.agent.writes
  now     : t.agent.now ≤ s.agent.now + n * s.cfg.attemptTimeout
  issue   : t.issue = []
  rsps    : t.rsps = s.rsps
  session : t.agent.session = s.agent.session

/-- An attempt that gets no byte is a write and a read, and then the loop's choice. -/
theorem run_silent_attempt {s : State} (hv : s.cfg.valid = true) (hh : s.cfg.hostValid = true) (hi : s.issue = [])
    (hph : s.agent.phase = .sending) (hsilent : ∀ a ∈ s.agent.inbox, a.bytes = []) :
    run 2 s = .next (s.transportWrite.afterRead.retryOrFail .timeout) := by
  have hread := step_receiving (s := s.transportWrite) hv hh hi rfl
  rw [State.transportRead_of_silent (s := s.transportWrite) fun a ha => hsilent a (List.mem_of_mem_head? ha)] at hread
  rw [run_succ 1 (step_sending hv hh hi hph), run_succ 0 hread]
  rfl

/-- While attempts are left, the loop tries again; the last attempt's timeout is the call's (R167, R177). -/
theorem run_silent_attempts {n : Nat} {s : State} (hv : s.cfg.valid = true) (hh : s.cfg.hostValid = true)
    (hi : s.issue = []) (hph : s.agent.phase = .sending) (ht : s.agent.task = .exchange)
    (hleft : s.agent.cur.attempts + (n + 1) = s.cfg.retryBudget) (hsilent : ∀ a ∈ s.agent.inbox, a.bytes = []) :
    ∃ t, run (2 * (n + 1)) s = .next t ∧ s.TimesOut t (n + 1) := by
  induction n generalizing s with
  | zero =>
    have hrun := run_silent_attempt hv hh hi hph hsilent
    rw [State.retryOrFail_of_le hleft.ge, State.failPass_of_exchange (s := s.transportWrite.afterRead) ht] at hrun
    have htime : s.transportWrite.readTime ≤ s.cfg.attemptTimeout := State.readTime_le _
    exact ⟨_, hrun, rfl, rfl, rfl, by simpa [State.afterRead, State.transportWrite] using htime, hi, rfl, rfl⟩
  | succ n ih =>
    have hrun := run_silent_attempt hv hh hi hph hsilent
    have hmore : s.agent.cur.attempts + 1 < s.cfg.retryBudget := by omega
    rw [State.retryOrFail_of_lt hmore] at hrun
    have hleft' : s.agent.cur.attempts + 1 + (n + 1) = s.cfg.retryBudget := by omega
    obtain ⟨t, hrest, h⟩ := ih (s := s.transportWrite.afterRead.toPhase .sending) hv hh hi rfl ht hleft'
      fun a ha => hsilent a (List.mem_of_mem_tail ha)
    refine ⟨t, ?_, h.results, h.phase, ?_, ?_, h.issue, h.rsps, h.session⟩
    · rw [show 2 * (n + 1 + 1) = 2 + 2 * (n + 1) by omega, run_add _ hrun, hrest]
    · rw [List.replicate_succ', List.append_assoc]
      exact h.writes
    · have htime : s.transportWrite.readTime ≤ s.cfg.attemptTimeout := State.readTime_le _
      have hnow : t.agent.now ≤ s.agent.now + s.transportWrite.readTime + (n + 1) * s.cfg.attemptTimeout := h.now
      rw [Nat.succ_mul (n + 1)]
      omega

/-! ### The value registers read out (R22, R24, R166) -/

/-- What REG.READ of a byte answers (R24, R97). -/
def State.regResponse (s : State) (r : Byte) : Response :=
  match decodeSelector r with
  | some x => ⟨true, 0#4, s.readSelector x⟩
  | none => ⟨false, 8#4, 0#32⟩

theorem State.regResponse_of_selector {r : Byte} {x : Selector} (h : decodeSelector r = some x) (s : State) :
    s.regResponse r = ⟨true, 0#4, s.readSelector x⟩ := by
  simp [State.regResponse, h]

/-- The response words and the port are no registers. -/
@[simp] theorem State.regResponse_outside (s : State) (es : List PortEvent) (rs : List Response) (a : Agent) :
    ({ s with issue := es, rsps := rs, agent := a } : State).regResponse = s.regResponse := rfl

theorem exec_regRead (r : Byte) (s : State) :
    exec (.regRead r) s = .next { s with rsps := s.regResponse r :: s.rsps } := by
  cases hx : decodeSelector r with
  | none => simpa [State.regResponse, hx] using exec_regRead_of_reserved hx s
  | some x => simpa [State.regResponse, hx] using exec_regRead_of_selector (s := s) hx rfl

/-- A run of REG.READ answers each in turn and does nothing else (R97). -/
theorem run_regReads {bs : List Byte} {s : State} (hv : s.cfg.valid = true)
    (hi : s.issue = presented (bs.map .regRead)) :
    run bs.length s = .next { s with issue := [], rsps := (bs.map s.regResponse).reverse ++ s.rsps } := by
  induction bs generalizing s with
  | nil =>
    have hnone : s.issue = [] := hi
    simp [run, ← hnone]
  | cons b bs ih =>
    rw [List.length_cons, run_succ _ ((step_presented_cons hv hi).trans (exec_regRead b _))]
    have hrest := ih (s := { s with issue := presented (bs.map .regRead), rsps := s.regResponse b :: s.rsps }) hv rfl
    refine hrest.trans ?_
    simp

/-- The selectors of the raws, the divisors and the quantities of `n` slots (R24). -/
def slotSelectors (n : Nat) : List Byte :=
  ((List.range n).map fun k => BitVec.ofNat 8 (0x10 + k)) ++ ((List.range n).map fun k => BitVec.ofNat 8 (0x20 + k))
    ++ ((List.range n).map fun k => BitVec.ofNat 8 (0x50 + k))

theorem slotCmds_eq_map (n : Nat) : slotCmds n = (slotSelectors n).map .regRead := by
  simp [slotCmds, slotSelectors, Function.comp_def]

@[simp] theorem length_slotSelectors (n : Nat) : (slotSelectors n).length = 3 * n := by
  simp [slotSelectors]
  omega

/-- Of the answers, the raws come first, then the divisors, then the quantities. -/
theorem getElem?_slotsOf (raw div qty : Nat → Response) {n i : Nat} (hi : i < n) :
    (slotsOf ((List.range n).map raw ++ (List.range n).map div ++ (List.range n).map qty) n)[i]? =
      some ⟨(raw i).data, (div i).data, (qty i).data.setWidth 8⟩ := by
  have hlt : ¬2 * n + i < n := by omega
  have hlt' : ¬2 * n + i - n < n := by omega
  have hoff : 2 * n + i - n - n = i := by omega
  simp [slotsOf, List.getElem?_append, hi, hlt, hlt', hoff]

/-- The answers to the reads of `n` slots, put together, are the slots the value registers hold. -/
theorem getElem?_slotsOf_regResponses {s : State} {n : Nat} {i : Fin 16} (hi : i.val < n) :
    (slotsOf ((slotSelectors n).map s.regResponse) n)[i.val]? =
      some ⟨s.val.raw[i], s.val.div[i], s.val.qty[i]⟩ := by
  obtain ⟨hraw, hdiv, -, -, hqty⟩ := decodeSelector_slot i
  simp only [slotSelectors, List.map_append, List.map_map]
  rw [getElem?_slotsOf _ _ _ hi]
  simp [State.regResponse_of_selector hraw, State.regResponse_of_selector hdiv, State.regResponse_of_selector hqty,
    State.readSelector]

@[simp] theorem VKind.ofCode_code (k : VKind) : VKind.ofCode k.code = k := by cases k <;> rfl

@[simp] theorem length_slotsOf (rs : List Response) (n : Nat) : (slotsOf rs n).length = n := by simp [slotsOf]

/-- From the answers about V_KIND and V_CNT the host goes on to the slots (R166). -/
theorem State.onKind_of_values (s : State) (kind : VKind) (cnt : BitVec 5) :
    s.onKind ⟨true, 0#4, kind.code.setWidth 32⟩ ⟨true, 0#4, cnt.setWidth 32⟩ =
      s.issueCmds (slotCmds cnt.toNat) (.readSlots kind cnt.toNat) := by
  have hcnt : (cnt.setWidth 32).toNat = cnt.toNat := BitVec.toNat_setWidth_of_le (by decide)
  simp [State.onKind, hcnt]

/-- With the reads of `n` slots at the port, the host returns what they read (R166). -/
theorem run_readSlots {s : State} {kind : VKind} {n : Nat} (hv : s.cfg.valid = true) (hh : s.cfg.hostValid = true)
    (hph : s.agent.phase = .readSlots kind n) (hi : s.issue = presented (slotCmds n)) :
    ∃ rs, run (3 * n + 1) s = .next (({ s with issue := [], rsps := rs } : State).endCall
      (.measured ⟨kind, slotsOf ((slotSelectors n).map s.regResponse) n⟩)) := by
  have hreads := run_regReads hv (slotCmds_eq_map n ▸ hi)
  rw [length_slotSelectors] at hreads
  have hend := step_readSlots (s := { s with
    issue := [], rsps := ((slotSelectors n).map s.regResponse).reverse ++ s.rsps }) hv hh rfl hph (by simp)
  rw [List.take_left' (by simp), List.reverse_reverse] at hend
  exact ⟨_, by rw [run_add 1 hreads, run_succ 0 hend]; rfl⟩

/-- With the reads of V_KIND and V_CNT at the port, the host goes on to the slots that are held (R166). -/
theorem run_readKind {s : State} (hv : s.cfg.valid = true) (hh : s.cfg.hostValid = true)
    (hph : s.agent.phase = .readKind) (hi : s.issue = presented kindCmds) :
    ∃ rs, run 3 s = .next (({ s with issue := [], rsps := rs } : State).issueCmds (slotCmds s.val.cnt.toNat)
      (.readSlots s.val.kind s.val.cnt.toNat)) := by
  obtain ⟨rs, hrs⟩ : ∃ rs, rs =
    ⟨true, 0#4, s.val.cnt.setWidth 32⟩ :: ⟨true, 0#4, s.val.kind.code.setWidth 32⟩ :: s.rsps := ⟨_, rfl⟩
  have hreads : run 2 s = .next { s with issue := [], rsps := rs } :=
    hrs ▸ run_regReads (bs := [0x07#8, 0x08#8]) hv hi
  have hslots := step_readKind (s := { s with issue := [], rsps := rs }) hv hh rfl hph hrs
  rw [State.onKind_of_values] at hslots
  exact ⟨rs, (run_add 1 hreads).trans (run_succ 0 hslots)⟩

/-- From there on the call returns what the value registers hold (R166). -/
theorem run_readValues {s : State} (hv : s.cfg.valid = true) (hh : s.cfg.hostValid = true)
    (hph : s.agent.phase = .readKind) (hi : s.issue = presented kindCmds) :
    ∃ rs, run (3 * s.val.cnt.toNat + 4) s = .next
      (({ s with issue := [], rsps := rs } : State).endCall
        (.measured ⟨s.val.kind, slotsOf ((slotSelectors s.val.cnt.toNat).map s.regResponse) s.val.cnt.toNat⟩)) := by
  obtain ⟨rs, hkind⟩ := run_readKind hv hh hph hi
  obtain ⟨rs', hslots⟩ := run_readSlots (s := ({ s with issue := [], rsps := rs } : State).issueCmds
    (slotCmds s.val.cnt.toNat) (.readSlots s.val.kind s.val.cnt.toNat)) hv hh rfl rfl
  rw [show 3 * s.val.cnt.toNat + 4 = 3 + (3 * s.val.cnt.toNat + 1) by omega, run_add _ hkind]
  exact ⟨rs', hslots⟩

/-! ### What a call does next -/

/-- The `execute` under way ends in `f` at the next step, with nothing issued or written and the session left. -/
def State.Ends (s : State) (f : Failure) : Prop :=
  ∃ t, step s = .next t ∧ t.agent.results = .failed f :: s.agent.results ∧
    t.agent.phase = .idle ∧ t.issue = [] ∧ t.agent.writes = s.agent.writes ∧ t.agent.session = s.agent.session

/-- The handshake under way ends in `f` at the next step, with nothing issued and the session Closed. -/
def State.EndsClosed (s : State) (f : Failure) : Prop :=
  ∃ t, step s = .next t ∧ t.agent.results = .failed f :: s.agent.results ∧
    t.agent.phase = .idle ∧ t.agent.session.phase = .closed ∧ t.issue = []

/-- The call under way is in phase `ph` after the next step, with `is` issued and nothing written. -/
def State.GoesOn (s : State) (ph : Phase) (is : List Instr) (cur : Exchange) (inbox : List Answer) : Prop :=
  ∃ t, step s = .next t ∧ t.agent.phase = ph ∧ t.issue = presented is ∧ t.agent.cur = cur ∧
    t.agent.inbox = inbox ∧ t.agent.task = s.agent.task ∧ t.agent.calls = s.agent.calls ∧
    t.agent.results = s.agent.results ∧ t.agent.writes = s.agent.writes ∧ t.agent.session = s.agent.session

theorem State.GoesOn.keeps_session {s : State} {ph : Phase} {is : List Instr} {cur : Exchange} {inbox : List Answer}
    (h : s.GoesOn ph is cur inbox) : ∃ t, step s = .next t ∧ t.agent.phase = ph ∧
      t.agent.session = s.agent.session ∧ t.agent.results = s.agent.results := by
  obtain ⟨t, hstep, hph, -, -, -, -, -, hresults, -, hsession⟩ := h
  exact ⟨t, hstep, hph, hsession, hresults⟩

theorem goesOn_of_step {s t : State} {ph : Phase} {is : List Instr} {cur : Exchange} {inbox : List Answer}
    (h : step s = .next t) (hissue : t.issue = presented is)
    (hagent : t.agent = { s.agent with phase := ph, cur := cur, inbox := inbox, now := t.agent.now }) :
    s.GoesOn ph is cur inbox := by
  rw [State.GoesOn, h]
  refine ⟨t, rfl, ?_⟩
  rw [hagent]
  simp [hissue]

/-- What the host issues on an idle port is what is presented there. -/
theorem goesOn_of_issueCmds {s u : State} {ph : Phase} {is : List Instr} {cur : Exchange} {inbox : List Answer}
    (hu : u.issue = []) (h : step s = .next (u.issueCmds is ph))
    (hagent : (u.issueCmds is ph).agent =
      { s.agent with phase := ph, cur := cur, inbox := inbox, now := u.agent.now }) :
    s.GoesOn ph is cur inbox :=
  goesOn_of_step h (by simp [hu, presented]) hagent

section Calls

variable {s : State} {f : Failure} {r : Response} {rs : List Response} (hv : s.cfg.valid = true)
  (hh : s.cfg.hostValid = true) (hi : s.issue = [])
include hi

/-- A failure of the pass ends an `execute` (R166). -/
theorem ends_of_failPass (ht : s.agent.task = .exchange) (h : step s = .next (s.failPass f)) : s.Ends f := by
  rw [State.failPass_of_exchange ht] at h
  exact ⟨_, h, rfl, rfl, hi, rfl, rfl⟩

/-- A failure of the pass ends a handshake (R162). -/
theorem endsClosed_of_failPass (ht : s.agent.task ≠ .exchange) (h : step s = .next (s.failPass f)) :
    s.EndsClosed (handshakeFailure f) := by
  rw [State.failPass_of_handshake ht] at h
  exact ⟨_, h, rfl, rfl, rfl, hi⟩

include hv hh

/-! ### REQUEST and DUMP (R165) -/

theorem goesOn_of_encoded {x : Schema} (hph : s.agent.phase = .encoding) (hr : s.rsps = r :: rs) (hok : r.ok = true)
    (hx : s.cfg.schema s.agent.cur.command = some x) :
    s.GoesOn .dumpLength [.regRead 0x02#8] { s.agent.cur with nExp := x.respDlen + 4 } s.agent.inbox := by
  have h := step_encoding hv hh hi hph hr
  rw [State.onEncoded_of_ok hx hok] at h
  exact goesOn_of_step h (by simp [hi, presented]) rfl

theorem step_refused (hph : s.agent.phase = .encoding) (hr : s.rsps = r :: rs)
    (hbad : r.ok = false ∨ s.cfg.schema s.agent.cur.command = none) :
    step s = .next (s.failPass .constructionError) := by
  rw [step_encoding hv hh hi hph hr, State.onEncoded_of_refused hbad]

theorem goesOn_of_dumpLength (hph : s.agent.phase = .dumpLength) (hr : s.rsps = r :: rs) :
    s.GoesOn (.dumpBytes r.data.toNat) (dumpCmds r.data.toNat) s.agent.cur s.agent.inbox :=
  goesOn_of_issueCmds hi (step_dumpLength hv hh hi hph hr) rfl

/-- The bytes that the BUF.READ of DUMP answer are the frame that is kept. -/
theorem goesOn_of_dumpBytes {frame : List Byte} (hph : s.agent.phase = .dumpBytes frame.length)
    (hr : s.rsps = (frame.reverse.map fun b => ⟨true, 0#4, b.setWidth 32⟩) ++ rs) :
    s.GoesOn .sending [] { s.agent.cur with frame := frame } s.agent.inbox := by
  have h := step_dumpBytes hv hh hi hph (by simp [hr])
  have hframe : ((s.rsps.take frame.length).reverse).map (fun r => r.data.setWidth 8) = frame := by
    rw [hr, List.take_left' (by simp)]
    simp [Function.comp_def]
  rw [State.keepFrame, hframe] at h
  exact goesOn_of_step h hi rfl

/-! ### The read of an attempt (R166, R168, R169) -/

section Silent

variable (hph : s.agent.phase = .receiving) (hsilent : ∀ a, s.agent.inbox.head? = some a → a.bytes = [])
include hph hsilent

theorem step_silent_read : step s = .next (s.afterRead.retryOrFail .timeout) := by
  rw [step_receiving hv hh hi hph, State.transportRead_of_silent hsilent]

theorem goesOn_of_silence (hleft : s.agent.cur.attempts < s.cfg.retryBudget) :
    s.GoesOn .sending [] s.agent.cur s.agent.inbox.tail := by
  have h := step_silent_read hv hh hi hph hsilent
  rw [State.retryOrFail_of_lt (s := s.afterRead) hleft] at h
  exact goesOn_of_step h hi rfl

theorem step_last_silence (hlast : s.cfg.retryBudget ≤ s.agent.cur.attempts) :
    step s = .next (s.afterRead.failPass .timeout) := by
  rw [step_silent_read hv hh hi hph hsilent, State.retryOrFail_of_le (s := s.afterRead) hlast]

theorem ends_of_last_silence (ht : s.agent.task = .exchange) (hlast : s.cfg.retryBudget ≤ s.agent.cur.attempts) :
    s.Ends .timeout := by
  have h := step_last_silence hv hh hi hph hsilent hlast
  rw [State.failPass_of_exchange (s := s.afterRead) ht] at h
  exact ⟨_, h, rfl, rfl, hi, rfl, rfl⟩

theorem endsClosed_of_last_silence (ht : s.agent.task ≠ .exchange)
    (hlast : s.cfg.retryBudget ≤ s.agent.cur.attempts) : s.EndsClosed .openTimeout := by
  have h := step_last_silence hv hh hi hph hsilent hlast
  rw [State.failPass_of_handshake (s := s.afterRead) ht] at h
  exact ⟨_, h, rfl, rfl, rfl, hi⟩

end Silent

theorem goesOn_of_answer {a : Answer} (hph : s.agent.phase = .receiving) (ha : s.agent.inbox.head? = some a)
    (hbytes : a.bytes ≠ []) (hexp : 0 < s.agent.cur.nExp) :
    s.GoesOn .decoding (responseCmds s.agent.cur.command (a.bytes.take s.agent.cur.nExp)) s.agent.cur
      s.agent.inbox.tail := by
  have h := step_receiving hv hh hi hph
  rw [State.transportRead_of_answer ha hbytes hexp] at h
  exact goesOn_of_issueCmds (u := s.afterRead) hi h rfl

/-! ### The answers to RESPONSE and VAL.DECODE (R166, R171, R173) -/

section Decoded

variable (hph : s.agent.phase = .decoding) (hr : s.rsps = r :: rs)
include hph hr

theorem goesOn_of_verified (hok : r.ok = true) (ht : s.agent.task = .exchange) :
    s.GoesOn .valuing [.valDecode s.agent.cur.command] s.agent.cur s.agent.inbox := by
  have h := step_decoding hv hh hi hph hr
  rw [State.onDecoded_of_ok hok ht] at h
  exact goesOn_of_issueCmds hi h rfl

theorem step_acknowledged (hok : r.ok = true) (ht : s.agent.task ≠ .exchange) : step s = .next s.sessionOpened := by
  rw [step_decoding hv hh hi hph hr, State.onDecoded_of_ack hok ht]

theorem goesOn_of_mismatch (hok : r.ok = false) (he : r.err = 2#4)
    (hleft : s.agent.cur.attempts < s.cfg.retryBudget) : s.GoesOn .sending [] s.agent.cur s.agent.inbox := by
  have h := step_decoding hv hh hi hph hr
  rw [State.onDecoded_of_mismatch hok he, State.retryOrFail_of_lt hleft] at h
  exact goesOn_of_step h hi rfl

theorem step_last_mismatch (hok : r.ok = false) (he : r.err = 2#4)
    (hlast : s.cfg.retryBudget ≤ s.agent.cur.attempts) : step s = .next (s.failPass .corruptResponse) := by
  rw [step_decoding hv hh hi hph hr, State.onDecoded_of_mismatch hok he, State.retryOrFail_of_le hlast]

theorem step_nak (hok : r.ok = false) (he : r.err = 3#4) : step s = .next (s.onNak (r.data.setWidth 8)) := by
  rw [step_decoding hv hh hi hph hr, State.onDecoded_of_nak hok he]

theorem step_badFrame (hok : r.ok = false) (he : r.err = 1#4 ∨ r.err = 4#4 ∨ r.err = 6#4) :
    step s = .next (s.failPass (.decodeFailed r.err)) := by
  rw [step_decoding hv hh hi hph hr, State.onDecoded_of_badFrame hok he]

end Decoded

theorem goesOn_of_valued (hph : s.agent.phase = .valuing) (hr : s.rsps = r :: rs) (hok : r.ok = true) :
    s.GoesOn .readKind kindCmds s.agent.cur s.agent.inbox := by
  have h := step_valuing hv hh hi hph hr
  rw [State.onValued, if_pos hok] at h
  exact goesOn_of_issueCmds hi h rfl

theorem step_valueError (hph : s.agent.phase = .valuing) (hr : s.rsps = r :: rs) (hok : r.ok = false) :
    step s = .next (s.failPass (.decodeFailed r.err)) := by
  rw [step_valuing hv hh hi hph hr, State.onValued, if_neg (by simp [hok])]

/-! ### NAKs and the handshake (R162, R172) -/

section Nak

variable (hph : s.agent.phase = .decoding) (hr : s.rsps = r :: rs) (hok : r.ok = false) (he : r.err = 3#4)
  (ht : s.agent.task = .exchange)
include hph hr hok he ht

theorem reopens_of_closed_nak (hk : r.data.setWidth 8 = s.cfg.nakClosed) (hfirst : s.agent.cur.reopened = false) :
    ∃ t, step s = .next t ∧ t.agent.task = .reopening s.agent.cur ∧ t.agent.session.phase = .opening ∧
      t.agent.phase = .encoding ∧
      t.issue = presented (requestCmds s.agent.session.address s.cfg.cOpen s.agent.session.openParams) ∧
      t.agent.results = s.agent.results := by
  have h := step_nak hv hh hi hph hr hok he
  rw [hk, State.onNak_of_closed ht hfirst] at h
  exact ⟨_, h, rfl, rfl, rfl, congrArg (· ++ _) hi, rfl⟩

theorem endsClosed_of_closed_nak (hk : r.data.setWidth 8 = s.cfg.nakClosed) (hagain : s.agent.cur.reopened = true) :
    ∃ t, step s = .next t ∧ t.agent.results = .failed (.rejected s.cfg.nakClosed) :: s.agent.results ∧
      t.agent.phase = .idle ∧ t.agent.session.phase = .closed ∧ t.issue = [] := by
  have h := step_nak hv hh hi hph hr hok he
  rw [hk, State.onNak_of_closed_again ht hagain] at h
  exact ⟨_, h, rfl, rfl, rfl, hi⟩

theorem ends_of_other_nak (hk : r.data.setWidth 8 ≠ s.cfg.nakClosed) : s.Ends (.rejected (r.data.setWidth 8)) := by
  have h := step_nak hv hh hi hph hr hok he
  rw [State.onNak_of_other ht hk] at h
  exact ⟨_, h, rfl, rfl, hi, rfl, rfl⟩

end Nak

end Calls

/-! ### The obligations -/

/-- Settles O55: the call ends where it begins. -/
theorem closedSessionFailsAtOnce : Obligations.ClosedSessionFailsAtOnce := by
  intro s c p cs hv hh hi hph hclosed hc
  have h := step_startCall hv hh hi hph hc
  rw [State.startCall_of_not_open hc hclosed] at h
  exact ⟨_, h, rfl, rfl, rfl, hi, rfl, rfl, rfl, rfl, rfl⟩

/-- Settles O56: RETRY_BUDGET attempts are left, and each gets no byte. -/
theorem silentTransportTimesOut : Obligations.SilentTransportTimesOut := by
  intro s hv hh hi hph ht hfresh hsilent
  obtain ⟨n, hn⟩ := Nat.exists_eq_add_one_of_ne_zero (Config.retryBudget_pos hh).ne'
  obtain ⟨t, hrun, h⟩ := run_silent_attempts (n := n) hv hh hi hph ht (by omega) hsilent
  rw [hn]
  exact ⟨t, hrun, h.results, h.phase, h.writes, h.now, h.issue, h.rsps, h.session⟩

/-- Settles O60: phase by phase, and the reads of the value registers as one run. -/
theorem callsPhaseByPhase : Obligations.CallsPhaseByPhase := by
  intro s hv hh ends goesOn
  refine ⟨fun hi => ⟨?_, ?_, ?_, ?_, ?_, ?_, ?_, ?_, fun ht => ⟨?_, ?_, ?_, ?_⟩⟩, ?_⟩
  · intro c p cs hph hopen hc
    have h := step_startCall hv hh hi hph hc
    rw [State.startCall_of_execute hc hopen] at h
    exact ⟨_, h, rfl, rfl, rfl, congrArg (· ++ _) hi, rfl, rfl, rfl, rfl, rfl⟩
  · exact fun r rs x hph hr hok hx => goesOn_of_encoded hv hh hi hph hr hok hx
  · exact fun r rs hph hr => goesOn_of_dumpLength hv hh hi hph hr
  · exact fun frame rs hph hr => goesOn_of_dumpBytes hv hh hi hph hr
  · exact fun hph => ⟨_, step_sending hv hh hi hph, rfl, rfl, rfl, hi, rfl, rfl, rfl, rfl, rfl⟩
  · exact fun hph hsilent hleft => goesOn_of_silence hv hh hi hph hsilent hleft
  · exact fun a hph ha hbytes hexp => goesOn_of_answer hv hh hi hph ha hbytes hexp
  · exact fun r rs hph hr hok he hleft => goesOn_of_mismatch hv hh hi hph hr hok he hleft
  · intro r rs hph hr hbad
    have h := step_refused hv hh hi hph hr hbad
    obtain ⟨-, hinbox, -⟩ := offLine_failPass s .constructionError
    exact ⟨ends_of_failPass hi ht h, _, h, hinbox⟩
  · exact fun hph hsilent hlast => ends_of_last_silence hv hh hi hph hsilent ht hlast
  · exact fun r rs hph hr => ⟨fun hok => goesOn_of_verified hv hh hi hph hr hok ht,
      fun hok he hlast => ends_of_failPass hi ht (step_last_mismatch hv hh hi hph hr hok he hlast),
      fun hok he => ends_of_failPass hi ht (step_badFrame hv hh hi hph hr hok he)⟩
  · exact fun r rs hph hr => ⟨fun hok => goesOn_of_valued hv hh hi hph hr hok,
      fun hok => ends_of_failPass hi ht (step_valueError hv hh hi hph hr hok)⟩
  · intro ht hph hi _
    obtain ⟨rs, hrun⟩ := run_readValues hv hh hph hi
    exact ⟨_, _, hrun, rfl, rfl, length_slotsOf _ _, fun i hlt => getElem?_slotsOf_regResponses hlt, rfl, rfl, rfl, rfl,
      rfl⟩

/-- Settles O59: the NAK's code and the reopening flag decide in an `execute`; in a handshake every way to fail is its
pass's failure. -/
theorem nakHandlingAndHandshake : Obligations.NakHandlingAndHandshake := by
  refine ⟨fun s r rs hv hh hi hph hr => ⟨fun ht hok he => ⟨?_, ?_, ?_⟩, fun outer ht hok => ?_, fun ht hok => ?_,
    fun ht hok => ⟨?_, ?_, ?_, ?_⟩⟩, fun s hv hh hi hph ht hsilent => ⟨?_, ?_⟩, ?_, ?_⟩
  · exact fun hk hfirst => reopens_of_closed_nak hv hh hi hph hr hok he ht hk hfirst
  · exact fun hk hagain => endsClosed_of_closed_nak hv hh hi hph hr hok he ht hk hagain
  · intro hk
    obtain ⟨t, h, hresults, hidle, hissue, -, hsession⟩ := ends_of_other_nak hv hh hi hph hr hok he ht hk
    exact ⟨t, h, hresults, hidle, hsession, hissue⟩
  · have h := step_acknowledged hv hh hi hph hr hok (by simp [ht])
    rw [State.sessionOpened_of_reopening ht] at h
    exact ⟨_, h, rfl, rfl, rfl, rfl, rfl, hi, rfl⟩
  · have h := step_acknowledged hv hh hi hph hr hok (by simp [ht])
    rw [State.sessionOpened_of_handshake ht] at h
    exact ⟨_, h, rfl, rfl, rfl, rfl, hi⟩
  · intro he
    have h := step_nak hv hh hi hph hr hok he
    rw [State.onNak_of_handshake ht] at h
    exact endsClosed_of_failPass hi ht h
  · exact fun he hleft => (goesOn_of_mismatch hv hh hi hph hr hok he hleft).keeps_session
  · exact fun he hlast => endsClosed_of_failPass hi ht (step_last_mismatch hv hh hi hph hr hok he hlast)
  · exact fun he => endsClosed_of_failPass hi ht (step_badFrame hv hh hi hph hr hok he)
  · exact fun hleft => (goesOn_of_silence hv hh hi hph hsilent hleft).keeps_session
  · exact fun hlast => endsClosed_of_last_silence hv hh hi hph hsilent ht hlast
  · intro s r rs hv hh hi hph ht hr hok
    have h := step_refused hv hh hi hph hr (.inl hok)
    rw [State.failPass_of_handshake ht] at h
    exact ⟨_, h, rfl, rfl, rfl, rfl⟩
  · intro s a p cs hv hh hi hph hc
    have h := step_startCall hv hh hi hph hc
    rw [State.startCall_of_openChannel hc] at h
    exact ⟨_, h, rfl, rfl, rfl, rfl, rfl, rfl, rfl, congrArg (· ++ _) hi⟩

end Sys2Proof.Machine
end

section
/-! SUPPORT. The errors of `frame_decode`, how a command ends with its codes and what it leaves on an error, and with them
the statements of the family of `60_exceptions.md`: the error codes (R137), which command raises which (R138), precise
errors (R141). -/

namespace Sys2Proof.Machine

/-- Each check of `frame_decode` has its own error, and a frame that passes them all decodes (R105). -/
theorem error_of_frameDecode {cfg : Config} {f : List Byte} {c : Byte} {e : Err} (h : frameDecode cfg f c = .error e) :
    e = .truncated ∨ e = .checksumMismatch ∨ (∃ k, e = .nak k) ∨ e = .unknownCommand ∨ e = .badLength := by
  obtain hshort | hlen := Nat.lt_or_ge f.length 4
  · cases (frameDecode_of_short hshort c).symm.trans h
    exact .inl rfl
  cases hcrc : crcVerify cfg.polyR f with
  | false =>
    cases (frameDecode_of_mismatch hlen hcrc c).symm.trans h
    exact .inr (.inl rfl)
  | true =>
    cases hnak : cfg.nakCode (f.getD 1 0#8) with
    | some k =>
      cases (frameDecode_of_nak hlen hcrc hnak c).symm.trans h
      exact .inr (.inr (.inl ⟨k, rfl⟩))
    | none =>
      cases hx : cfg.schema c with
      | none =>
        cases (frameDecode_of_unknown hlen hcrc hnak hx).symm.trans h
        exact .inr (.inr (.inr (.inl rfl)))
      | some x =>
        by_cases hdlen : f.length - 4 = x.respDlen
        · cases (frameDecode_eq_ok_iff.2 ⟨hlen, hcrc, hnak, ⟨x, hx, hdlen⟩, rfl⟩).symm.trans h
        · cases (frameDecode_of_badLength hlen hcrc hnak hx hdlen).symm.trans h
          exact .inr (.inr (.inr (.inr rfl)))

/-- The codes of the errors that R138 lists for each command. -/
def raisedCodes : Instr → List Nibble
  | .bufClr | .crcInit | .crcUpdate _ | .crcCompute | .crcVerify | .rst => []
  | .bufPush _ => [9#4]
  | .bufRead _ | .regRead _ => [8#4]
  | .frmEncode => [7#4]
  | .frmDecode _ => [1#4, 2#4, 3#4, 6#4, 4#4]
  | .valDecode _ => [10#4, 6#4, 4#4, 5#4]

/-- A command ends in success, or in an error listed for it, and on an error it has not written BUF, LEN or CRC
(R138, R141). -/
theorem exec_succeeds_or_fails {i : Instr} {s t : State} (h : exec i s = .next t) :
    ∃ u r, t = State.finish u i.raw.op r ∧ u.rsps = s.rsps ∧
      ((∃ d, r = .success d) ∨
        ∃ e, r = .error e ∧ e.code ∈ raisedCodes i ∧ u.mem = s.mem ∧ u.len = s.len ∧ u.crc = s.crc) := by
  cases i with
  | bufClr | crcInit | crcUpdate _ | crcCompute | crcVerify | rst => cases h; exact ⟨_, _, rfl, rfl, .inl ⟨_, rfl⟩⟩
  | bufPush b =>
    obtain ⟨-, rfl⟩ | ⟨-, rfl⟩ := execBufPush_next h
    · exact ⟨_, _, rfl, rfl, .inr ⟨_, rfl, List.mem_singleton.2 rfl, rfl, rfl, rfl⟩⟩
    · exact ⟨_, _, rfl, rfl, .inl ⟨_, rfl⟩⟩
  | bufRead a =>
    obtain ⟨r, rfl, rfl | hd⟩ := execBufRead_next h
    · exact ⟨_, _, rfl, rfl, .inr ⟨_, rfl, List.mem_singleton.2 rfl, rfl, rfl, rfl⟩⟩
    · exact ⟨_, _, rfl, rfl, .inl hd⟩
  | frmEncode =>
    obtain rfl | ⟨-, rfl⟩ := execFrmEncode_next h
    · exact ⟨_, _, rfl, rfl, .inr ⟨_, rfl, List.mem_singleton.2 rfl, rfl, rfl, rfl⟩⟩
    · exact ⟨_, _, rfl, rfl, .inl ⟨_, rfl⟩⟩
  | frmDecode c =>
    obtain ⟨e, he, rfl⟩ | ⟨r, -, rfl⟩ := execFrmDecode_next h
    · have hcode : e.code ∈ raisedCodes (.frmDecode c) := by
        obtain rfl | rfl | ⟨k, rfl⟩ | rfl | rfl := error_of_frameDecode he <;> simp [raisedCodes, Err.code]
      exact ⟨_, _, rfl, rfl, .inr ⟨e, rfl, hcode, rfl, rfl, rfl⟩⟩
    · exact ⟨_, _, rfl, rfl, .inl ⟨_, rfl⟩⟩
  | valDecode c =>
    obtain ⟨e, he, rfl⟩ | ⟨m, q, -, rfl⟩ := execValDecode_next h
    · have hcode : e.code ∈ raisedCodes (.valDecode c) := by
        obtain rfl | rfl | rfl | rfl := he <;> simp [raisedCodes, Err.code]
      exact ⟨_, _, rfl, rfl, .inr ⟨e, rfl, hcode, rfl, rfl, rfl⟩⟩
    · exact ⟨_, _, rfl, rfl, .inl ⟨_, rfl⟩⟩
  | regRead r =>
    obtain ⟨x, rfl, rfl | hd⟩ := execRegRead_next h
    · exact ⟨_, _, rfl, rfl, .inr ⟨_, rfl, List.mem_singleton.2 rfl, rfl, rfl, rfl⟩⟩
    · exact ⟨_, _, rfl, rfl, .inl hd⟩

/-! ### The obligations -/

/-- Settles O47: a success has ERR 0, an error its code, and the codes a command can give are those listed for it. -/
theorem whichCommandRaisesWhat : Obligations.WhichCommandRaisesWhat := by
  intro i s t h
  obtain ⟨u, r, rfl, hrsps, hend⟩ := exec_succeeds_or_fails h
  have herr : r.err = 0#4 ∨ r.err ∈ raisedCodes i := by
    obtain ⟨d, rfl⟩ | ⟨e, rfl, hcode, -⟩ := hend
    · exact .inl rfl
    · exact .inr hcode
  refine ⟨r, congrArg (r :: ·) hrsps, ?_⟩
  cases i <;> simpa [raisedCodes] using herr

/-- Settles O49: an error leaves BUF, LEN and CRC, no command touches the rest, and the record is the response
word's. -/
theorem failingCommandIsPrecise : Obligations.FailingCommandIsPrecise := by
  intro i s t r h hr hfail
  obtain ⟨hagent, hcfg, hissue⟩ := exec_keeps_host h
  obtain ⟨u, r', rfl, hrsps, hend⟩ := exec_succeeds_or_fails h
  obtain rfl : r' = r := (List.cons.inj hr).1
  obtain ⟨d, rfl⟩ | ⟨e, rfl, -, hmem, hlen, hcrc⟩ := hend
  · cases hfail
  · refine ⟨hmem, hlen, hcrc, hcfg, hissue, hagent, fun ho => ?_⟩
    rw [State.finish_recorded ho]
    exact ⟨rfl, rfl, rfl⟩

/-- Settles O46: each code is read off the table. -/
theorem errorCodes : Obligations.ErrorCodes := by
  refine ⟨rfl, rfl, fun _ => rfl, rfl, rfl, rfl, rfl, rfl, rfl, rfl, fun e => ?_⟩
  cases e <;> simp [Err.code]

end Sys2Proof.Machine
end
